-- ==== Sys2Proof/Word.lean ====
section
/-!
DEFINITION. The bit-string types of the machine (spec 00_scope R7: bits are numbered from 0 at the
least significant end; every quantity is unsigned) and the index type of the register file.
-/

namespace Sys2Proof

/-- A byte: a RAM cell, a general register, a timer (R20, R28, R29, R50). -/
abbrev Byte := BitVec 8

/-- A nibble, the 4-bit half of a byte (R11). -/
abbrev Nibble := BitVec 4

/-- A 12-bit quantity: an `nnn` field and the address register `I` (R23, R71). -/
abbrev Addr := BitVec 12

/-- A 16-bit quantity: an instruction word, `PC`, a stack slot, the key mask (R22, R25, R33, R70). -/
abbrev Word := BitVec 16

/-- The number of a general register; a 4-bit field names all sixteen (R20, R73). -/
abbrev Reg := Fin 16

/-- Register 15, the flag register `VF` (R21). -/
abbrev regVF : Reg := 15

end Sys2Proof
end

