-- ==== Sys2Proof/Config.lean ====
section
/-!
DEFINITION. The implementation parameters of spec 00_scope R5 and R6, the OPEN parameters, and the
two free inputs of an instruction cycle. A constant declared `opaque` has no body that Lean can look
into: every theorem about the machine holds whatever its value is.
-/

namespace Sys2Proof.Config

/-- `RAM_SIZE` (R5). -/
abbrev ramSize : Nat := 4096

/-- `INSTR_BYTES` (R5). -/
abbrev instrBytes : Nat := 2

/-- `DISPLAY_W` (R5). -/
abbrev displayWidth : Nat := 64

/-- `DISPLAY_H` (R5). -/
abbrev displayHeight : Nat := 32

/-- `KEY_COUNT` (R5). -/
abbrev keyCount : Nat := 16

/-- `PROG_BASE` (R5, D1). PRESUMED, unsafe: the value is general knowledge (G2); log 1. -/
abbrev progBase : Nat := 0x200

/-- `STACK_DEPTH` (R5, D2). PRESUMED, unsafe: the value is general knowledge (G3); log 2. -/
abbrev stackDepth : Nat := 16

/-- `PROG_CAPACITY` (R6). -/
abbrev progCapacity : Nat := ramSize - progBase

/-- Which of its two values the OPEN parameter `RET_OFFSET` has (R5, R141, D12); log 6. Safe. -/
opaque retOffsetIsTwo : Bool

/-- `RET_OFFSET`, 0 or 2 and nothing else (R5). -/
def retOffset : Nat := if retOffsetIsTwo then 2 else 0

/-- The OPEN parameter `JUMP_GUARD_THRESHOLD`, any natural number (R5, R142, D14); log 7. Safe. -/
opaque jumpGuardThreshold : Nat

/-- The OPEN parameter `ERROR_MESSAGE`, any string (R5, R210, D16); log 8. Safe. -/
opaque errorMessage : String

/-- FREE VALUE: the input `ticks` that the k-th cycle to apply ticks receives (R120, R122); log 9. Safe. -/
opaque freeTicks : Nat → Nat

/-- FREE VALUE: the k-th byte `draw_byte()` supplies (R8, R173); log 10. Safe. -/
opaque freeByte : Nat → Byte

end Sys2Proof.Config
end

