-- ==== Sys2Proof/Syntax.lean ====
section
/-!
DEFINITION. The instructions: one constructor per row of spec/opcode_table.json, the 24 instructions of
30_encoding R76 in its order and the four rows of unimplemented words (46_unimplemented R210, R213).
-/

namespace Sys2Proof

/-- A decoded instruction with its fields (R71, R73). The don't-care bits of `CLS`, `RET` and
`SE Vx,Vy` (R75) are not kept. An unimplemented word keeps its bits, though no rule reads them
(R210: "the word's fields are ignored"); log 28. -/
inductive Instr where
  /-- `CLS` (R191) -/
  | cls
  /-- `RET` (R141) -/
  | ret
  /-- `JP addr` (R142) -/
  | jp (nnn : Addr)
  /-- `CALL addr` (R143) -/
  | call (nnn : Addr)
  /-- `SE Vx,nn` (R144) -/
  | seVxNn (x : Reg) (nn : Byte)
  /-- `SNE Vx,nn` (R145) -/
  | sneVxNn (x : Reg) (nn : Byte)
  /-- `SE Vx,Vy` (R146) -/
  | seVxVy (x y : Reg)
  /-- `LD Vx,nn` (R161) -/
  | ldVxNn (x : Reg) (nn : Byte)
  /-- `ADD Vx,nn` (R162) -/
  | addVxNn (x : Reg) (nn : Byte)
  /-- `LD Vx,Vy` (R163) -/
  | ldVxVy (x y : Reg)
  /-- `OR Vx,Vy` (R164) -/
  | orVxVy (x y : Reg)
  /-- `AND Vx,Vy` (R165) -/
  | andVxVy (x y : Reg)
  /-- `XOR Vx,Vy` (R166) -/
  | xorVxVy (x y : Reg)
  /-- `ADD Vx,Vy` (R167) -/
  | addVxVy (x y : Reg)
  /-- `SUB Vx,Vy` (R168) -/
  | subVxVy (x y : Reg)
  /-- `SHR Vx,Vy` (R169); `y` is encoded and not used -/
  | shrVxVy (x y : Reg)
  /-- `SUBN Vx,Vy` (R170) -/
  | subnVxVy (x y : Reg)
  /-- `SHL Vx,Vy` (R171); `y` is encoded and not used -/
  | shlVxVy (x y : Reg)
  /-- `LD I,nnn` (R172) -/
  | ldINnn (nnn : Addr)
  /-- `RND Vx,nn` (R173) -/
  | rndVxNn (x : Reg) (nn : Byte)
  /-- `DRW Vx,Vy,n` (R192) -/
  | drwVxVyN (x y : Reg) (n : Nibble)
  /-- `LD Vx,DT` (R201) -/
  | ldVxDt (x : Reg)
  /-- `LD DT,Vx` (R202) -/
  | ldDtVx (x : Reg)
  /-- `LD ST,Vx` (R203) -/
  | ldStVx (x : Reg)
  /-- an unimplemented word of group 9, with its low twelve bits (R213) -/
  | unimplementedGroup9 (rest : BitVec 12)
  /-- an unimplemented word of group 0xB, with its low twelve bits (R213) -/
  | unimplementedGroupB (rest : BitVec 12)
  /-- an unimplemented word of group 0xE, with its low twelve bits (R213) -/
  | unimplementedGroupE (rest : BitVec 12)
  /-- any other unimplemented word: the rest of groups 0, 8 and 0xF (R211, R212, R214) -/
  | unimplementedFallback (w : Word)
  deriving DecidableEq, Repr

end Sys2Proof
end

