-- ==== Sys2Proof/Decode.lean ====
section
/-!
DEFINITION. The instruction codec (40_codec R100 to R112), the decoder (30_encoding R74, R75), the
encoder (R81) and the opcode map (R76). The bit positions of R71 are written once, as the `Field`s below;
every extractor, every encoder, and through them the decoder, the encoder, the assembler and the
disassembler, is built from those by `Field.get` and `Field.put` (R102).
Opcode values but for 00E0, 00EE, 6xkk and 7xkk are PRESUMED (general knowledge, G1, G6), unsafe; log 14.
-/

namespace Sys2Proof.Codec

/-! ### Field positions (R71), the one statement of them (R102) -/

/-- A field of the instruction word: its width is the index, `lo` its least significant bit. -/
structure Field (width : Nat) where
  lo : Nat
  deriving DecidableEq, Repr

/-- The value of a field of a word. -/
def Field.get {k : Nat} (f : Field k) (w : Word) : BitVec k := w.extractLsb' f.lo k

/-- The word that holds a value in a field and 0 elsewhere. -/
def Field.put {k : Nat} (f : Field k) (v : BitVec k) : Word := v.setWidth 16 <<< f.lo

/-- `op`, bits 15..12. -/
def opField : Field 4 := { lo := 12 }

/-- `x`, bits 11..8. -/
def xField : Field 4 := { lo := 8 }

/-- `y`, bits 7..4. -/
def yField : Field 4 := { lo := 4 }

/-- `n`, bits 3..0. -/
def nField : Field 4 := { lo := 0 }

/-- `nn`, bits 7..0. -/
def nnField : Field 8 := { lo := 0 }

/-- `nnn`, bits 11..0. -/
def nnnField : Field 12 := { lo := 0 }

/-- byte0, the byte at the lower address: bits 15..8 (R53, R70). -/
def byte0Field : Field 8 := { lo := 8 }

/-- byte1, the byte at the next address: bits 7..0 (R53, R70). -/
def byte1Field : Field 8 := { lo := 0 }

/-! ### Words and byte pairs (R53, R70) -/

/-- The word of a byte pair. -/
def wordOf (p : Byte × Byte) : Word := byte0Field.put p.1 ||| byte1Field.put p.2

/-- The byte pair of a word. -/
def pairOf (w : Word) : Byte × Byte := (byte0Field.get w, byte1Field.get w)

/-- A register field as a register number (R73). -/
def regOf (f : Nibble) : Reg := f.toFin

/-- A register number as a field. -/
def fieldOf (r : Reg) : Nibble := BitVec.ofFin r

/-! ### Fields of a byte pair

Each is its field of the word; a byte it does not need is taken as 0. -/

/-- `op`, of byte0 (R103). -/
def opOf (b0 : Byte) : Nibble := opField.get (wordOf (b0, 0))

/-- `x`, of byte0 (R104). -/
def xOf (b0 : Byte) : Nibble := xField.get (wordOf (b0, 0))

/-- `y`, of byte1 (R105). -/
def yOf (b1 : Byte) : Nibble := yField.get (wordOf (0, b1))

/-- `n`, of byte1 (R106). -/
def nOf (b1 : Byte) : Nibble := nField.get (wordOf (0, b1))

/-- `nn`, of byte1 (R107). -/
def nnOf (b1 : Byte) : Byte := nnField.get (wordOf (0, b1))

/-- `nnn`, of both bytes (R108). -/
def nnnOf (b0 b1 : Byte) : Addr := nnnField.get (wordOf (b0, b1))

/-! ### Extractors over a buffer (R100 to R108)

`none` is the range fault of R101. -/

/-- `op_code(buf, off)` (R103); needs `buf[off]` only (R101, D26; log 24). -/
def opCode (buf : List Byte) (off : Nat) : Option Nibble := buf[off]?.map opOf

/-- `op_x(buf, off)` (R104); needs `buf[off]` only (R101, D26; log 24). -/
def opX (buf : List Byte) (off : Nat) : Option Nibble := buf[off]?.map xOf

/-- `op_y(buf, off)` (R105). -/
def opY (buf : List Byte) (off : Nat) : Option Nibble := buf[off + 1]?.map yOf

/-- `op_n(buf, off)` (R106). -/
def opN (buf : List Byte) (off : Nat) : Option Nibble := buf[off + 1]?.map nOf

/-- `op_nn(buf, off)` (R107). -/
def opNn (buf : List Byte) (off : Nat) : Option Byte := buf[off + 1]?.map nnOf

/-- `op_nnn(buf, off)` (R108). -/
def opNnn (buf : List Byte) (off : Nat) : Option Addr :=
  buf[off]?.bind fun b0 => buf[off + 1]?.map fun b1 => nnnOf b0 b1

/-! ### Encoders (R109 to R111): the byte pair, high byte first -/

/-- `encode_nnn(op, nnn)` (R109); `opCode` and `opNnn` give its fields back (R112). -/
def encodeNnn (op : Nibble) (nnn : Addr) : Byte × Byte := pairOf (opField.put op ||| nnnField.put nnn)

/-- `encode_xnn(op, x, nn)` (R110); `opCode`, `opX` and `opNn` give its fields back (R112). -/
def encodeXnn (op x : Nibble) (nn : Byte) : Byte × Byte :=
  pairOf (opField.put op ||| xField.put x ||| nnField.put nn)

/-- `encode_xyn(op, x, y, n)` (R111); `opCode`, `opX`, `opY` and `opN` give its fields back (R112). -/
def encodeXyn (op x y n : Nibble) : Byte × Byte :=
  pairOf (opField.put op ||| xField.put x ||| yField.put y ||| nField.put n)

end Sys2Proof.Codec

namespace Sys2Proof

open Codec

/-! ### The decoder (R74, R75, R78) -/

/-- Group 0: the low byte decides; bits 11..8 are not examined (R75, D15; log 15). -/
def decodeGroup0 (b0 b1 : Byte) : Instr :=
  match (nnOf b1).toNat with
  | 0xE0 => .cls
  | 0xEE => .ret
  | _ => .unimplementedFallback (wordOf (b0, b1))

/-- Group 8: the low nibble decides (R74, G6). -/
def decodeGroup8 (b0 b1 : Byte) : Instr :=
  match (nOf b1).toNat with
  | 0x0 => .ldVxVy (regOf (xOf b0)) (regOf (yOf b1))
  | 0x1 => .orVxVy (regOf (xOf b0)) (regOf (yOf b1))
  | 0x2 => .andVxVy (regOf (xOf b0)) (regOf (yOf b1))
  | 0x3 => .xorVxVy (regOf (xOf b0)) (regOf (yOf b1))
  | 0x4 => .addVxVy (regOf (xOf b0)) (regOf (yOf b1))
  | 0x5 => .subVxVy (regOf (xOf b0)) (regOf (yOf b1))
  | 0x6 => .shrVxVy (regOf (xOf b0)) (regOf (yOf b1))
  | 0x7 => .subnVxVy (regOf (xOf b0)) (regOf (yOf b1))
  | 0xE => .shlVxVy (regOf (xOf b0)) (regOf (yOf b1))
  | _ => .unimplementedFallback (wordOf (b0, b1))

/-- Group 0xF: the low byte decides (R74, G6). -/
def decodeGroupF (b0 b1 : Byte) : Instr :=
  match (nnOf b1).toNat with
  | 0x07 => .ldVxDt (regOf (xOf b0))
  | 0x15 => .ldDtVx (regOf (xOf b0))
  | 0x18 => .ldStVx (regOf (xOf b0))
  | _ => .unimplementedFallback (wordOf (b0, b1))

/-- The instruction of a byte pair: total (R80). The opcode nibble decides first, then groups 0, 8
and 0xF by a second field; groups 9, 0xB and 0xE have no implemented member (R74). In group 5 bits
3..0 are not examined (R75, D15; log 15). -/
def decodePair (b0 b1 : Byte) : Instr :=
  match (opOf b0).toNat with
  | 0x0 => decodeGroup0 b0 b1
  | 0x1 => .jp (nnnOf b0 b1)
  | 0x2 => .call (nnnOf b0 b1)
  | 0x3 => .seVxNn (regOf (xOf b0)) (nnOf b1)
  | 0x4 => .sneVxNn (regOf (xOf b0)) (nnOf b1)
  | 0x5 => .seVxVy (regOf (xOf b0)) (regOf (yOf b1))
  | 0x6 => .ldVxNn (regOf (xOf b0)) (nnOf b1)
  | 0x7 => .addVxNn (regOf (xOf b0)) (nnOf b1)
  | 0x8 => decodeGroup8 b0 b1
  | 0x9 => .unimplementedGroup9 (nnnOf b0 b1)
  | 0xA => .ldINnn (nnnOf b0 b1)
  | 0xB => .unimplementedGroupB (nnnOf b0 b1)
  | 0xC => .rndVxNn (regOf (xOf b0)) (nnOf b1)
  | 0xD => .drwVxVyN (regOf (xOf b0)) (regOf (yOf b1)) (nOf b1)
  | 0xE => .unimplementedGroupE (nnnOf b0 b1)
  | _ => decodeGroupF b0 b1

/-- The instruction of a 16-bit word (R70). -/
def decodeWord (w : Word) : Instr := decodePair (pairOf w).1 (pairOf w).2

/-- Why a byte sequence holds no instruction. -/
inductive DecodeError where
  /-- fewer than two bytes are left; every pair of bytes decodes (R80) -/
  | truncated
  deriving DecidableEq, Repr

/-- Decode the first instruction of a byte sequence, with the bytes after it. -/
def decode : List Byte → Except DecodeError (Instr × List Byte)
  | b0 :: b1 :: rest => .ok (decodePair b0 b1, rest)
  | _ => .error .truncated

/-! ### The encoder (R81): the canonical word, don't-care bits zero -/

/-- The byte pair of an instruction, high byte first (R81, R109 to R111). -/
def encode : Instr → Byte × Byte
  | .cls => encodeXnn 0x0 0 0xE0
  | .ret => encodeXnn 0x0 0 0xEE
  | .jp nnn => encodeNnn 0x1 nnn
  | .call nnn => encodeNnn 0x2 nnn
  | .seVxNn x nn => encodeXnn 0x3 (fieldOf x) nn
  | .sneVxNn x nn => encodeXnn 0x4 (fieldOf x) nn
  | .seVxVy x y => encodeXyn 0x5 (fieldOf x) (fieldOf y) 0x0
  | .ldVxNn x nn => encodeXnn 0x6 (fieldOf x) nn
  | .addVxNn x nn => encodeXnn 0x7 (fieldOf x) nn
  | .ldVxVy x y => encodeXyn 0x8 (fieldOf x) (fieldOf y) 0x0
  | .orVxVy x y => encodeXyn 0x8 (fieldOf x) (fieldOf y) 0x1
  | .andVxVy x y => encodeXyn 0x8 (fieldOf x) (fieldOf y) 0x2
  | .xorVxVy x y => encodeXyn 0x8 (fieldOf x) (fieldOf y) 0x3
  | .addVxVy x y => encodeXyn 0x8 (fieldOf x) (fieldOf y) 0x4
  | .subVxVy x y => encodeXyn 0x8 (fieldOf x) (fieldOf y) 0x5
  | .shrVxVy x y => encodeXyn 0x8 (fieldOf x) (fieldOf y) 0x6
  | .subnVxVy x y => encodeXyn 0x8 (fieldOf x) (fieldOf y) 0x7
  | .shlVxVy x y => encodeXyn 0x8 (fieldOf x) (fieldOf y) 0xE
  | .ldINnn nnn => encodeNnn 0xA nnn
  | .rndVxNn x nn => encodeXnn 0xC (fieldOf x) nn
  | .drwVxVyN x y n => encodeXyn 0xD (fieldOf x) (fieldOf y) n
  | .ldVxDt x => encodeXnn 0xF (fieldOf x) 0x07
  | .ldDtVx x => encodeXnn 0xF (fieldOf x) 0x15
  | .ldStVx x => encodeXnn 0xF (fieldOf x) 0x18
  | .unimplementedGroup9 rest => encodeNnn 0x9 rest
  | .unimplementedGroupB rest => encodeNnn 0xB rest
  | .unimplementedGroupE rest => encodeNnn 0xE rest
  | .unimplementedFallback w => pairOf w

/-- The word of an instruction. -/
def encodeWord (i : Instr) : Word := wordOf (encode i)

/-! ### The opcode map (R76): match and mask of each row -/

/-- The `match` and the `mask` of the row an instruction stands for, as R76 and the opcode table
print them; the fallback row admits every word and has the lowest priority. -/
def tableRow : Instr → Word × Word
  | .cls => (0x00E0, 0xF0FF)
  | .ret => (0x00EE, 0xF0FF)
  | .jp _ => (0x1000, 0xF000)
  | .call _ => (0x2000, 0xF000)
  | .seVxNn _ _ => (0x3000, 0xF000)
  | .sneVxNn _ _ => (0x4000, 0xF000)
  | .seVxVy _ _ => (0x5000, 0xF000)
  | .ldVxNn _ _ => (0x6000, 0xF000)
  | .addVxNn _ _ => (0x7000, 0xF000)
  | .ldVxVy _ _ => (0x8000, 0xF00F)
  | .orVxVy _ _ => (0x8001, 0xF00F)
  | .andVxVy _ _ => (0x8002, 0xF00F)
  | .xorVxVy _ _ => (0x8003, 0xF00F)
  | .addVxVy _ _ => (0x8004, 0xF00F)
  | .subVxVy _ _ => (0x8005, 0xF00F)
  | .shrVxVy _ _ => (0x8006, 0xF00F)
  | .subnVxVy _ _ => (0x8007, 0xF00F)
  | .shlVxVy _ _ => (0x800E, 0xF00F)
  | .ldINnn _ => (0xA000, 0xF000)
  | .rndVxNn _ _ => (0xC000, 0xF000)
  | .drwVxVyN _ _ _ => (0xD000, 0xF000)
  | .ldVxDt _ => (0xF007, 0xF0FF)
  | .ldDtVx _ => (0xF015, 0xF0FF)
  | .ldStVx _ => (0xF018, 0xF0FF)
  | .unimplementedGroup9 _ => (0x9000, 0xF000)
  | .unimplementedGroupB _ => (0xB000, 0xF000)
  | .unimplementedGroupE _ => (0xE000, 0xF000)
  | .unimplementedFallback _ => (0x0000, 0x0000)

/-- The 24 implemented rows of R76 in its order, as (match, mask). -/
def implementedRows : List (Word × Word) :=
  [(0x00E0, 0xF0FF), (0x00EE, 0xF0FF), (0x1000, 0xF000), (0x2000, 0xF000),
   (0x3000, 0xF000), (0x4000, 0xF000), (0x5000, 0xF000), (0x6000, 0xF000)] ++
  [(0x7000, 0xF000), (0x8000, 0xF00F), (0x8001, 0xF00F), (0x8002, 0xF00F),
   (0x8003, 0xF00F), (0x8004, 0xF00F), (0x8005, 0xF00F), (0x8006, 0xF00F)] ++
  [(0x8007, 0xF00F), (0x800E, 0xF00F), (0xA000, 0xF000), (0xC000, 0xF000),
   (0xD000, 0xF000), (0xF007, 0xF0FF), (0xF015, 0xF0FF), (0xF018, 0xF0FF)]

/-- A word selects a row when `w & mask = match` (R76). -/
def selects (w : Word) (row : Word × Word) : Bool := w &&& row.2 == row.1

/-! ### The table's own numbering of bits -/

/-- The instruction the decoder reads from an instruction whose bits are `w`, bit 0 the least
significant bit of its one 16-bit word. The word is laid out high byte first and given to `decode`.
An instruction has 16 bits: a longer one does not exist. -/
def decodeTableWord (nbits w : Nat) : Option Instr :=
  if nbits ≤ 16 then
    let p := pairOf (BitVec.ofNat 16 (w % 2 ^ nbits))
    match decode [p.1, p.2] with
    | .ok (i, _) => some i
    | .error _ => none
  else none

end Sys2Proof
end

