-- ==== Sys2Proof/Machine/State.lean ====
section
/-!
DEFINITION. The state of the engine (10_state R20 to R41), the reasons a step can stop, and the state
after creation (R39, R260). Everything is plain data.
-/

namespace Sys2Proof.Machine

/-- The reason an instruction cycle ended with a report to its caller (60_exceptions R220): the five
members of the document's set, with no numeric codes (D28). -/
inductive Flow where
  /-- after every `DRW` (R221) -/
  | draw
  /-- a `JP` above the jump-guard threshold (R222) -/
  | jump
  /-- the trap check, `trap` set and `error` absent (R223) -/
  | interrupt
  /-- an unimplemented word, or the trap check with `error` present; it carries the text (R224) -/
  | error (message : String)
  /-- a member of the set that no rule yields (R133, R225) -/
  | delay
  deriving DecidableEq, Repr

/-- `IndexFault`, the fatal indexing fault (60_exceptions R227), one constructor per cause of R228.
The engine aborts: there is no state afterwards. All of them are SAFE: the spec itself ends the run
there, and no next state is claimed. Log 12. -/
inductive Fault where
  /-- raised by the fetch of an instruction cycle when `PC + 1 > 4095` (R123); safe -/
  | fetchOutOfRange (pc : Nat)
  /-- raised by `DRW` when a sprite byte lies above address 4095; carries `I + n - 1` (R192); safe -/
  | spriteOutOfRange (addr : Nat)
  /-- raised by `CALL` with a full stack (R143); safe -/
  | stackOverflow
  /-- raised by `RET` with an empty stack (R141); safe -/
  | stackUnderflow
  /-- raised by `RET` when `SP` is no slot number (00_scope R8); no reachable state has it; safe; log 13 -/
  | stackSlotOutOfRange (slot : Nat)
  /-- raised by a codec extractor called outside the engine beyond its buffer (R101); safe -/
  | codecWindow (off : Nat)
  deriving DecidableEq, Repr

/-- Why something is refused. -/
inductive Refusal where
  /-- an instruction without a meaning; no arm of `exec` answers it; safe -/
  | notModelled (mnemonic : String)
  /-- `LargeProgram`: `load` was given more bytes than fit; no state changes (R229); safe -/
  | largeProgram (length : Nat)
  deriving DecidableEq, Repr

/-- What a cycle, an instruction or a load answers. -/
abbrev Outcome := Host.Outcome

/-- RAM (20_memory R50) as cells in canonical form: addresses strictly rising, all of them below
4096, and no cell that holds what an unlisted address reads as. -/
abbrev Memory := List Host.Cell

/-- The display buffer, 32 rows of 64 cells; row 0 on top, column 0 on the left (R27, D23). -/
abbrev Display := Vector (Vector Bool Config.displayWidth) Config.displayHeight

/-- The display with every cell unset. -/
abbrev Display.blank : Display := Vector.replicate Config.displayHeight (Vector.replicate Config.displayWidth false)

/-- The call stack: `STACK_DEPTH` slots of 16 bits (R25, D2). -/
abbrev CallStack := Vector Word Config.stackDepth

/-- The call stack with every slot zero. -/
abbrev CallStack.zero : CallStack := Vector.replicate Config.stackDepth 0

/-- Every piece of state the spec gives the engine, and three fields of the model's own. -/
structure State where
  /-- the general registers `V[0]` .. `V[15]` (R20); `V[15]` is `VF` (R21) -/
  v : Vector Byte 16
  /-- the address register `I` (R23) -/
  i : Addr
  /-- the program counter (R22) -/
  pc : Word
  /-- the stack pointer: the index of the most recently pushed slot, 0 when empty (R24) -/
  sp : BitVec 8
  /-- the call stack (R25) -/
  stack : CallStack
  /-- RAM (R26, R50) -/
  mem : Memory
  /-- the display buffer (R27) -/
  disp : Display
  /-- the delay timer `DT` (R28) -/
  dt : Byte
  /-- the sound timer `ST` (R29) -/
  st : Byte
  /-- the buzzer-state flag (R30) -/
  buzzer : Bool
  /-- the sticky trap flag (R31) -/
  trap : Bool
  /-- the optional fatal-error message (R32) -/
  error : Option String
  /-- the key state, bit k for key k (R33) -/
  keys : BitVec 16
  /-- the loop guard's count of consecutive jumps (R34) -/
  jumpCount : Nat
  /-- the model's own: what the last instruction cycle reported, `none` when it continued; log 11 -/
  flow : Option Flow
  /-- the model's own: which value of `Config.freeTicks` comes next; log 9 -/
  ticksTaken : Nat
  /-- the model's own: which value of `Config.freeByte` comes next; log 10 -/
  bytesDrawn : Nat
  deriving DecidableEq, Repr

/-- The engine after creation (R39, R260): `PC` is `PROG_BASE`, everything else zero, false or absent.
The values are the spec's decision D5, UNVERIFIED, unsafe; log 4. The three fields of the model's own
are DESIGN CHOICE, safe; log 9, 10, 11. -/
def State.reset : State where
  v := Vector.replicate 16 0
  i := 0
  pc := BitVec.ofNat 16 Config.progBase
  sp := 0
  stack := CallStack.zero
  mem := []
  disp := Display.blank
  dt := 0
  st := 0
  buzzer := false
  trap := false
  error := none
  keys := 0
  jumpCount := 0
  flow := none
  ticksTaken := 0
  bytesDrawn := 0

end Sys2Proof.Machine
end

