-- ==== Sys2Proof/Machine/Ops.lean ====
section
/-!
DEFINITION. The named operations over memory, registers, stack, timers and the trap. Every meaning
is written with them.
-/

namespace Sys2Proof.Machine

/-! ### RAM (20_memory R50 to R58) -/

/-- What a byte of RAM that is not listed reads as: RAM is zero after creation and outside a loaded
program (R39, R58; D5, UNVERIFIED, unsafe; log 5). -/
def Memory.unlisted : Byte := 0

/-- The byte at an address. -/
def Memory.get : Memory → Nat → Byte
  | [], _ => Memory.unlisted
  | (k, b) :: m, a => if k = a then b else Memory.get m a

/-- A cell in front of a memory, left out when it holds what an unlisted address reads as. -/
def Memory.consCell (a : Nat) (b : Byte) (m : Memory) : Memory :=
  if b = Memory.unlisted then m else (a, b) :: m

/-- The memory with the byte at an address written; it keeps the canonical form. -/
def Memory.set : Memory → Nat → Byte → Memory
  | [], a, b => Memory.consCell a b []
  | (k, c) :: m, a, b =>
    if a < k then Memory.consCell a b ((k, c) :: m)
    else if a = k then Memory.consCell a b m
    else (k, c) :: Memory.set m a b

/-- The memory with bytes written from an address up, in order. -/
def Memory.setBytes : Memory → Nat → List Byte → Memory
  | m, _, [] => m
  | m, a, b :: bs => Memory.setBytes (Memory.set m a b) (a + 1) bs

/-- The canonical form, for cells at `lo` or above: rising addresses below 4096, nothing unlisted. -/
def Memory.wfFrom : Nat → Memory → Bool
  | _, [] => true
  | lo, (k, b) :: m => decide (lo ≤ k) && decide (k < Config.ramSize) && decide (b ≠ Memory.unlisted) && Memory.wfFrom (k + 1) m

/-- The canonical form of a memory. -/
def Memory.wf (m : Memory) : Bool := Memory.wfFrom 0 m

/-- `RAM[a]`. -/
def State.ram (s : State) (a : Nat) : Byte := s.mem.get a

/-- An address RAM has: 0..4095, and no wrap above (R50, R56). -/
def inRam (a : Nat) : Bool := decide (a ≤ Config.ramSize - 1)

/-! ### General registers (R20, R21) -/

/-- `V[r]`. -/
def State.getV (s : State) (r : Reg) : Byte := s.v.get r

/-- `V[r] <- b`. -/
def State.setV (s : State) (r : Reg) (b : Byte) : State := { s with v := s.v.set r.val b r.isLt }

/-- `VF <- b`: a write of register 15 (R21). -/
def State.setVF (s : State) (b : Byte) : State := s.setV regVF b

/-! ### Program counter and loop guard (R22, R125) -/

/-- The end of a sequential instruction: `PC <- PC + 2`, and the run of jumps is over. -/
def State.advance (s : State) : State := { s with pc := s.pc + 2, jumpCount := 0 }

/-- The end of a skip: `PC <- PC + 4` if it is taken, else `PC + 2`; the run of jumps is over. -/
def State.skipIf (s : State) (taken : Bool) : State :=
  { s with pc := s.pc + (if taken then 4 else 2), jumpCount := 0 }

/-- `PC <- target`, and the run of jumps is over (`CALL`, `RET`). -/
def State.goTo (s : State) (target : Word) : State := { s with pc := target, jumpCount := 0 }

/-- An `nnn` field as a value of `PC` (R73: an absolute RAM address). -/
def addrToPc (nnn : Addr) : Word := nnn.setWidth 16

/-- `yield F`: the cycle will report `F` (R220; log 11). -/
def State.yield (s : State) (f : Flow) : State := { s with flow := some f }

/-- `PC <- nnn` of `JP`, and the loop guard: the count goes up by one; above the threshold it is
cleared and `Jump` is yielded (R142, D14; log 7). -/
def State.jumpGuarded (s : State) (target : Word) : State :=
  if s.jumpCount + 1 > Config.jumpGuardThreshold then
    { s with pc := target, jumpCount := 0, flow := some .jump }
  else { s with pc := target, jumpCount := s.jumpCount + 1 }

/-! ### Call stack (R24, R25) -/

/-- Push a value, the stack pointer incremented first; a full stack is an index fault (R143, D13; log 12). -/
def State.push (s : State) (a : Word) : Except Fault State :=
  if h : s.sp.toNat + 1 < Config.stackDepth then
    .ok { s with sp := s.sp + 1, stack := s.stack.set (s.sp.toNat + 1) a h }
  else .error .stackOverflow

/-- Pop a value, the stack pointer decremented after the read; an empty stack is an index fault
(R141, D13; log 12). The slot read is not cleared. -/
def State.pop (s : State) : Except Fault (Word × State) :=
  if s.sp = 0 then .error .stackUnderflow
  else if h : s.sp.toNat < Config.stackDepth then .ok (s.stack[s.sp.toNat], { s with sp := s.sp - 1 })
  else .error (.stackSlotOutOfRange s.sp.toNat)

/-! ### Timers and buzzer (R28 to R30, R122) -/

/-- `ST <- b`, and the buzzer flag re-evaluated (R30, R203, D18; log 19). -/
def State.setSt (s : State) (b : Byte) : State := { s with st := b, buzzer := decide (b ≠ 0) }

/-- `DT <- b`; the buzzer is not involved (R202). -/
def State.setDt (s : State) (b : Byte) : State := { s with dt := b }

/-- A timer after a number of ticks: it counts down and stays at 0 (R28, R29, R122). -/
def countDown (timer : Byte) (ticks : Nat) : Byte := BitVec.ofNat 8 (timer.toNat - ticks)

/-- One 60 Hz tick (R28, R29). -/
def State.tick (s : State) : State :=
  (s.setDt (if s.dt.toNat > 0 then s.dt - 1 else 0)).setSt (if s.st.toNat > 0 then s.st - 1 else 0)

/-- The tick step of an instruction cycle (R122). -/
def State.applyTicks (s : State) (ticks : Nat) : State :=
  (s.setDt (countDown s.dt ticks)).setSt (countDown s.st ticks)

/-! ### The random byte (R8, R173) -/

/-- `draw_byte()`: the next free byte, and the state with the index moved on (log 10). -/
def State.drawByte (s : State) : Byte × State :=
  (Config.freeByte s.bytesDrawn, { s with bytesDrawn := s.bytesDrawn + 1 })

/-! ### The trap (R31, R32, R226, R232)

The only exception the spec describes has no handler: "entry" is the report of a flow to the host
(R232) and there is no return from it (R233). -/

/-- A fatal error is recorded: `trap <- true`, `error <- msg` (R31, R32, R242). -/
def State.fatal (s : State) (msg : String) : State := { s with trap := true, error := some msg }

/-- TAKING THE EXCEPTION `UnsupportedOpcode` (R210, R226): the error is recorded and `Error` is
yielded; `PC` and everything else stay (D16; log 8). -/
def State.unsupportedOpcode (s : State) : State :=
  (s.fatal Config.errorMessage).yield (.error Config.errorMessage)

/-- What the trap check reports: `Error` with the text if `error` is present, else `Interrupt` (R121). -/
def trapFlow : Option String → Flow
  | some msg => .error msg
  | none => .interrupt

/-! ### Faults as outcomes -/

/-- An operation that may fault, as the outcome of an instruction. -/
def andThen {α : Type} (r : Except Fault α) (k : α → Outcome State Fault Refusal) : Outcome State Fault Refusal :=
  match r with
  | .ok a => k a
  | .error f => .fault f

/-- A codec extractor called outside the engine: beyond the buffer it is the index fault (R101). -/
def codecAt {α : Type} (extract : List Byte → Nat → Option α) (buf : List Byte) (off : Nat) : Except Fault α :=
  match extract buf off with
  | some a => .ok a
  | none => .error (.codecWindow off)

end Sys2Proof.Machine
end

