-- ==== Sys2Proof/Machine/Operands.lean ====
section
/-!
DEFINITION. The operand forms of 30_encoding R73: a register named by a field, an immediate byte, and
the implicit `DT`. Addresses (`nnn`) and the row count (`n`) are used as they stand in the field.
-/

namespace Sys2Proof.Machine

/-- A byte operand that an instruction reads. -/
inductive Operand where
  /-- `Vx` or `Vy`: the register whose number is the field -/
  | reg (r : Reg)
  /-- `nn`: the unsigned byte of the field, with no extension and no scaling -/
  | imm (nn : Byte)
  /-- `DT`, implicit in the opcode -/
  | delayTimer
  deriving DecidableEq, Repr

/-- The value of an operand. -/
def Operand.value (o : Operand) (s : State) : Byte :=
  match o with
  | .reg r => s.getV r
  | .imm nn => nn
  | .delayTimer => s.dt

/-- `n` as a row count 0..15 (R73). -/
def rowCount (n : Nibble) : Nat := n.toNat

/-- `I` as a RAM address (R50). -/
def State.addrI (s : State) : Nat := s.i.toNat

end Sys2Proof.Machine
end

