-- ==== Sys2Proof/Machine/ControlFlow.lean ====
section
/-!
DEFINITION. Control flow (42_control_flow R140 to R146): RET, JP, CALL, SE, SNE. `PC` on entry is the
address of the instruction itself.
-/

namespace Sys2Proof.Machine

/-- `RET` (R141): `PC` becomes the popped value plus `RET_OFFSET` (OPEN, D12; log 6). -/
def execRet (s : State) : Outcome State Fault Refusal :=
  andThen s.pop fun (a, t) => .next (t.goTo (a + BitVec.ofNat 16 Config.retOffset))

/-- `JP addr` (R142). -/
def execJp (nnn : Addr) (s : State) : Outcome State Fault Refusal :=
  .next (s.jumpGuarded (addrToPc nnn))

/-- `CALL addr` (R143): the address of the `CALL` itself is pushed. -/
def execCall (nnn : Addr) (s : State) : Outcome State Fault Refusal :=
  andThen (s.push s.pc) fun t => .next (t.goTo (addrToPc nnn))

/-- The skips: a comparison of two byte operands for equality, and the sense of the mnemonic. The
skipped bytes are not looked at (D33). -/
def skipWhen (onEqual : Bool) (a b : Operand) (s : State) : Outcome State Fault Refusal :=
  .next (s.skipIf ((a.value s == b.value s) == onEqual))

/-- `SE Vx,nn` (R144). -/
def execSeVxNn (x : Reg) (nn : Byte) (s : State) : Outcome State Fault Refusal :=
  skipWhen true (.reg x) (.imm nn) s

/-- `SNE Vx,nn` (R145). -/
def execSneVxNn (x : Reg) (nn : Byte) (s : State) : Outcome State Fault Refusal :=
  skipWhen false (.reg x) (.imm nn) s

/-- `SE Vx,Vy` (R146). -/
def execSeVxVy (x y : Reg) (s : State) : Outcome State Fault Refusal :=
  skipWhen true (.reg x) (.reg y) s

end Sys2Proof.Machine
end

