-- ==== Sys2Proof/Machine/Flags.lean ====
section
/-!
DEFINITION. The 8-bit results and the values written to `VF` (10_state R36, 43_load_alu R160 to R171,
44_display R192). Results are the low 8 bits of the exact result; everything is unsigned.
-/

namespace Sys2Proof.Machine

/-- A flag as the byte written to `VF`. -/
def flagByte (b : Bool) : Byte := if b then 1 else 0

/-- Sum, wrapped to 8 bits (R162, R167). -/
def sum8 (a b : Byte) : Byte := a + b

/-- Difference `a - b`, wrapped to 8 bits (R168, R170). -/
def diff8 (a b : Byte) : Byte := a - b

/-- Carry: 1 iff the exact sum exceeds 255 (R167). -/
def carryFlag (a b : Byte) : Byte := flagByte (decide (a.toNat + b.toNat > 255))

/-- Not borrow of `a - b`: 0 iff `b > a` (R168, R170). -/
def notBorrowFlag (a b : Byte) : Byte := flagByte (!decide (b.toNat > a.toNat))

/-- The bit `SHR` shifts out: old bit 0 (R169). -/
def lowBitOut (a : Byte) : Byte := a &&& 1

/-- The bit `SHL` shifts out: old bit 7 (R171). -/
def highBitOut (a : Byte) : Byte := (a >>> 7) &&& 1

/-- Logical shift right by one; the vacated bit 7 is 0 (R169). -/
def shr1 (a : Byte) : Byte := a >>> 1

/-- Shift left by one, wrapped to 8 bits; the vacated bit 0 is 0 (R171). -/
def shl1 (a : Byte) : Byte := a <<< 1

/-- Collision: 1 iff some cell went from set to unset (R192). -/
def collisionFlag (hit : Bool) : Byte := flagByte hit

end Sys2Proof.Machine
end

