-- ==== Sys2Proof/Machine/Display.lean ====
section
/-!
DEFINITION. The display and its instructions (44_display R190 to R194): CLS and DRW. The blit is the loop
of R192; its rows and columns wrap modulo the display's size (R194).
-/

namespace Sys2Proof.Machine

/-- `disp[r][c]`. -/
def Display.cell (d : Display) (r : Fin Config.displayHeight) (c : Fin Config.displayWidth) : Bool :=
  (d.get r).get c

/-- `disp[r][c] <- b`. -/
def Display.setCell (d : Display) (r : Fin Config.displayHeight) (c : Fin Config.displayWidth) (b : Bool) : Display :=
  d.set r.val ((d.get r).set c.val b c.isLt) r.isLt

/-- A row coordinate, wrapped modulo 32. -/
def wrapRow (k : Nat) : Fin Config.displayHeight := Fin.ofNat _ k

/-- A column coordinate, wrapped modulo 64. -/
def wrapCol (k : Nat) : Fin Config.displayWidth := Fin.ofNat _ k

/-- The bit of a sprite byte at a column 0..7: bit 7 is the leftmost (R193, PRESUMED G4, unsafe; log 18). -/
def spriteBit (b : Byte) (col : Nat) : Bool := b.getLsbD (7 - col)

/-- One cell under a 1 bit: a set cell is a collision; the cell is inverted (R192). -/
def flipCell (d : Display × Bool) (r : Fin Config.displayHeight) (c : Fin Config.displayWidth) : Display × Bool :=
  (d.1.setCell r c (!d.1.cell r c), d.2 || d.1.cell r c)

/-- One column of a sprite row: a 0 bit changes nothing (R192). -/
def blitCol (x0 : Nat) (r : Fin Config.displayHeight) (b : Byte) (d : Display × Bool) (col : Nat) : Display × Bool :=
  if spriteBit b col then flipCell d r (wrapCol (x0 + col)) else d

/-- One sprite row, columns 0 to 7 in order. -/
def blitRow (x0 : Nat) (r : Fin Config.displayHeight) (b : Byte) (d : Display × Bool) : Display × Bool :=
  (List.range 8).foldl (blitCol x0 r b) d

/-- The sprite rows from row coordinate `y` down, in order. -/
def blitRows (x0 : Nat) : Nat → List Byte → Display × Bool → Display × Bool
  | _, [], d => d
  | y, b :: bs, d => blitRows x0 (y + 1) bs (blitRow x0 (wrapRow y) b d)

/-- The `n` sprite bytes at an address. -/
def State.spriteBytes (s : State) (addr n : Nat) : List Byte :=
  (List.range n).map fun row => s.ram (addr + row)

/-- The range check of `DRW`, before any change: with no row there is nothing to check (R192, R194 c). -/
def State.spriteFault (s : State) (n : Nat) : Option Fault :=
  if n > 0 ∧ s.addrI + n - 1 > Config.ramSize - 1 then some (.spriteOutOfRange (s.addrI + n - 1)) else none

/-- The display and the collision after a sprite of `n` rows at `I` is drawn at (`Vx`, `Vy`). -/
def State.blit (s : State) (x y : Reg) (n : Nat) : Display × Bool :=
  blitRows (s.getV x).toNat (s.getV y).toNat (s.spriteBytes s.addrI n) (s.disp, false)

/-- `CLS` (R191): every cell unset; nothing is yielded. -/
def execCls (s : State) : Outcome State Fault Refusal :=
  .next ({ s with disp := Display.blank }).advance

/-- `DRW Vx,Vy,n` (R192): the coordinates are read before `VF` is written; `Draw` is yielded always
(D4, D19; log 18). -/
def execDrwVxVyN (x y : Reg) (n : Nibble) (s : State) : Outcome State Fault Refusal :=
  match s.spriteFault (rowCount n) with
  | some f => .fault f
  | none =>
    .next ((({ s with disp := (s.blit x y (rowCount n)).1 }).setVF
      (collisionFlag (s.blit x y (rowCount n)).2)).advance.yield .draw)

end Sys2Proof.Machine
end

