-- ==== Sys2Proof/Machine/LoadAlu.lean ====
section
/-!
DEFINITION. Load, arithmetic, logic, shift, address-register and random instructions (43_load_alu R160
to R173). All end with `PC <- PC + 2` (for the ALU group the spec's reading, D8; log 17).
-/

namespace Sys2Proof.Machine

/-- A result written to `Vx`, no flag: the form of the loads, the logic group and `ADD Vx,nn`
(`VF` is not written, D9; log 16). -/
def storeResult (x : Reg) (b : Byte) (s : State) : Outcome State Fault Refusal :=
  .next (s.setV x b).advance

/-- A result written to `Vx` and then a flag to `VF`, so that with `x = 15` the flag remains: the form
of `ADD`, `SUB`, `SUBN Vx,Vy` (R167, D10; log 16). -/
def storeThenFlag (x : Reg) (b flag : Byte) (s : State) : Outcome State Fault Refusal :=
  .next ((s.setV x b).setVF flag).advance

/-- A flag written to `VF`, and then `Vx` read again and shifted: the form of `SHR` and `SHL`
(R169, D11; log 16). -/
def flagThenShift (x : Reg) (flag : Byte) (shift : Byte → Byte) (s : State) : Outcome State Fault Refusal :=
  .next ((s.setVF flag).setV x (shift ((s.setVF flag).getV x))).advance

/-- `LD Vx,nn` (R161). -/
def execLdVxNn (x : Reg) (nn : Byte) (s : State) : Outcome State Fault Refusal :=
  storeResult x ((Operand.imm nn).value s) s

/-- `ADD Vx,nn` (R162): no flag change. -/
def execAddVxNn (x : Reg) (nn : Byte) (s : State) : Outcome State Fault Refusal :=
  storeResult x (sum8 (s.getV x) ((Operand.imm nn).value s)) s

/-- `LD Vx,Vy` (R163). -/
def execLdVxVy (x y : Reg) (s : State) : Outcome State Fault Refusal :=
  storeResult x ((Operand.reg y).value s) s

/-- `OR Vx,Vy` (R164). -/
def execOrVxVy (x y : Reg) (s : State) : Outcome State Fault Refusal :=
  storeResult x (s.getV x ||| s.getV y) s

/-- `AND Vx,Vy` (R165). -/
def execAndVxVy (x y : Reg) (s : State) : Outcome State Fault Refusal :=
  storeResult x (s.getV x &&& s.getV y) s

/-- `XOR Vx,Vy` (R166). -/
def execXorVxVy (x y : Reg) (s : State) : Outcome State Fault Refusal :=
  storeResult x (s.getV x ^^^ s.getV y) s

/-- `ADD Vx,Vy` (R167): `VF` is the carry. -/
def execAddVxVy (x y : Reg) (s : State) : Outcome State Fault Refusal :=
  storeThenFlag x (sum8 (s.getV x) (s.getV y)) (carryFlag (s.getV x) (s.getV y)) s

/-- `SUB Vx,Vy` (R168): `Vx - Vy`; `VF` is the not-borrow. -/
def execSubVxVy (x y : Reg) (s : State) : Outcome State Fault Refusal :=
  storeThenFlag x (diff8 (s.getV x) (s.getV y)) (notBorrowFlag (s.getV x) (s.getV y)) s

/-- `SUBN Vx,Vy` (R170): `Vy - Vx` into `Vx`; `VF` is the not-borrow. -/
def execSubnVxVy (x y : Reg) (s : State) : Outcome State Fault Refusal :=
  storeThenFlag x (diff8 (s.getV y) (s.getV x)) (notBorrowFlag (s.getV y) (s.getV x)) s

/-- `SHR Vx,Vy` (R169): `Vy` is not used. -/
def execShrVxVy (x _y : Reg) (s : State) : Outcome State Fault Refusal :=
  flagThenShift x (lowBitOut (s.getV x)) shr1 s

/-- `SHL Vx,Vy` (R171): `Vy` is not used. -/
def execShlVxVy (x _y : Reg) (s : State) : Outcome State Fault Refusal :=
  flagThenShift x (highBitOut (s.getV x)) shl1 s

/-- `LD I,nnn` (R172). -/
def execLdINnn (nnn : Addr) (s : State) : Outcome State Fault Refusal :=
  .next ({ s with i := nnn }).advance

/-- `RND Vx,nn` (R173): the drawn byte is free (log 10). -/
def execRndVxNn (x : Reg) (nn : Byte) (s : State) : Outcome State Fault Refusal :=
  storeResult x (s.drawByte.1 &&& nn) s.drawByte.2

end Sys2Proof.Machine
end

