-- ==== Sys2Proof/Machine/Timers.lean ====
section
/-!
DEFINITION. The timer moves (45_timers R200 to R203). The countdown is not part of them: ticks are applied
at the start of the cycle (R122). `PC <- PC + 2` is the spec's reading (D8; log 17).
-/

namespace Sys2Proof.Machine

/-- `LD Vx,DT` (R201). -/
def execLdVxDt (x : Reg) (s : State) : Outcome State Fault Refusal :=
  .next (s.setV x (Operand.delayTimer.value s)).advance

/-- `LD DT,Vx` (R202). -/
def execLdDtVx (x : Reg) (s : State) : Outcome State Fault Refusal :=
  .next (s.setDt ((Operand.reg x).value s)).advance

/-- `LD ST,Vx` (R203): the buzzer flag is re-evaluated. -/
def execLdStVx (x : Reg) (s : State) : Outcome State Fault Refusal :=
  .next (s.setSt ((Operand.reg x).value s)).advance

end Sys2Proof.Machine
end

