-- ==== Sys2Proof/Machine/Unimplemented.lean ====
section
/-!
DEFINITION. The unimplemented words (46_unimplemented R210 to R214): each takes the exception
`UnsupportedOpcode` (R226). The word's fields are ignored.
-/

namespace Sys2Proof.Machine

/-- A word of group 9 (R213). -/
def execUnimplementedGroup9 (s : State) : Outcome State Fault Refusal := .next s.unsupportedOpcode

/-- A word of group 0xB (R213). -/
def execUnimplementedGroupB (s : State) : Outcome State Fault Refusal := .next s.unsupportedOpcode

/-- A word of group 0xE (R213). -/
def execUnimplementedGroupE (s : State) : Outcome State Fault Refusal := .next s.unsupportedOpcode

/-- Any other unimplemented word (R210, R211, R212, R214). -/
def execUnimplementedFallback (s : State) : Outcome State Fault Refusal := .next s.unsupportedOpcode

end Sys2Proof.Machine
end

