-- ==== Sys2Proof/Machine/Cycle.lean ====
section
/-!
DEFINITION. The instruction cycle (41_execution_loop R120 to R126): trap check, timer ticks, fetch,
decode, execute. Pacing has no architectural effect (R131). Loop-guard bookkeeping (R125) stands in the
meanings.
-/

namespace Sys2Proof.Machine

/-- Fetch (R123): the two bytes at `PC`, with no alignment check (D25; log 26). -/
def State.fetch (s : State) : Except Fault (Byte × Byte) :=
  if s.pc.toNat + 1 > Config.ramSize - 1 then .error (.fetchOutOfRange s.pc.toNat)
  else .ok (s.ram s.pc.toNat, s.ram (s.pc.toNat + 1))

/-- The state in which the fetched instruction executes: ticks applied, their index moved on, and no
flow reported yet (R122; log 9, 11). -/
def State.beginCycle (s : State) (ticks : Nat) : State :=
  { s.applyTicks ticks with ticksTaken := s.ticksTaken + 1, flow := none }

/-- The trap check's report: nothing else changes (R121, D17; log 20). -/
def State.reportTrap (s : State) : State := s.yield (trapFlow s.error)

/-- One instruction cycle with its input `ticks` (R120). -/
def cycle (ticks : Nat) (s : State) : Outcome State Fault Refusal :=
  if s.trap then .next s.reportTrap
  else andThen (s.beginCycle ticks).fetch fun p => exec (decodePair p.1 p.2) (s.beginCycle ticks)

/-- One instruction cycle, its `ticks` the next free value (U7; log 9). -/
def cycleFree (s : State) : Outcome State Fault Refusal := cycle (Config.freeTicks s.ticksTaken) s

/-- The state with a word where the next cycle will fetch it, and nothing in the way of that fetch: no
trap, and a `PC` from which two bytes can be fetched (kept if it is one, else `PROG_BASE`); log 27. -/
def State.placeWord (s : State) (w : Word) : State :=
  let pc : Word := if s.pc.toNat + 1 > Config.ramSize - 1 then BitVec.ofNat 16 Config.progBase else s.pc
  let p := Codec.pairOf w
  { s with mem := s.mem.setBytes pc.toNat [p.1, p.2], pc := pc, trap := false, error := none }

end Sys2Proof.Machine
end

