-- ==== Sys2Proof/Machine/Step.lean ====
section
/-!
DEFINITION. One step of the machine is one instruction cycle (41_execution_loop R120). A yield is a next
state that records the flow (R10; log 11); an index fault is a fault; no step is refused.
-/

namespace Sys2Proof.Machine

/-- One step. -/
def step (s : State) : Host.Outcome State Fault Refusal := cycleFree s

/-- `s` with the instruction whose 16 bits are `w` placed where `step` fetches next (log 27). -/
def State.withFetchWord (s : State) (nbits w : Nat) : State :=
  s.placeWord (BitVec.ofNat 16 (w % 2 ^ nbits))

end Sys2Proof.Machine
end

