-- ==== Sys2Proof/Machine/Transactions.lean ====
section
/-!
DEFINITION. The host's transactions (60_exceptions R236 to R243, 41_execution_loop R127, R128,
70_reset_and_hazards R261): the whole host interface, each an atomic operation between two cycles.
-/

namespace Sys2Proof.Machine

/-- `load(bytes)` (R237, R261): refused when the bytes do not fit (R229); else RAM, stack and display are
zeroed, the bytes copied, `PC`, `SP`, `jump_count`, `trap` and `error` set; `V`, `I`, timers, buzzer and
keys stay (D6, D17, D32, D34; log 23). An odd number of bytes is accepted (R262, D7). -/
def load (bytes : List Byte) (s : State) : Outcome State Fault Refusal :=
  if bytes.length > Config.progCapacity then .refused (.largeProgram bytes.length)
  else .next { s with
    mem := Memory.setBytes [] Config.progBase bytes
    stack := CallStack.zero
    disp := Display.blank
    pc := BitVec.ofNat 16 Config.progBase
    sp := 0
    jumpCount := 0
    trap := false
    error := none }

/-- What `resume` ends with. -/
inductive ResumeResult where
  /-- it returned this flow, in this state -/
  | yielded (f : Flow) (s : State)
  /-- it aborted with an index fault -/
  | faulted (r : Fault)
  /-- a cycle was refused; no cycle of this machine is -/
  | refused (r : Refusal)
  /-- the model's budget of cycles ran out before a cycle yielded -/
  | running (s : State)
  deriving DecidableEq, Repr

/-- `resume()` (R127, R239): cycles until one yields. The budget is the model's: a `resume` that never
returns is one that is `running` for every budget (log 25). -/
def resume : Nat → State → ResumeResult
  | 0, s => .running s
  | k + 1, s =>
    match step s with
    | .next t =>
      match t.flow with
      | none => resume k t
      | some f => .yielded f t
    | .fault r => .faulted r
    | .refused r => .refused r

/-- What `execute` ends with (R238). -/
inductive ExecuteResult where
  /-- success, with the flow `Interrupt` -/
  | interrupted (s : State)
  /-- the error class `Runtime`, with the trapped text -/
  | runtime (message : String) (s : State)
  /-- it aborted with an index fault -/
  | faulted (r : Fault)
  /-- a cycle was refused; no cycle of this machine is -/
  | refused (r : Refusal)
  /-- the model's budget of cycles ran out before it ended -/
  | running (s : State)
  deriving DecidableEq, Repr

/-- The loop of `execute` (R128): a transient flow (`Draw`, `Jump`) is re-entered; `Interrupt` and
`Error` end it. `Delay`, which no cycle yields, would be re-entered (D21). -/
def executeLoop : Nat → State → ExecuteResult
  | 0, s => .running s
  | k + 1, s =>
    match step s with
    | .next t =>
      match t.flow with
      | some .interrupt => .interrupted t
      | some (.error msg) => .runtime msg t
      | some .draw | some .jump | some .delay | none => executeLoop k t
    | .fault r => .faulted r
    | .refused r => .refused r

/-- `execute()` (R128, R238): the loop guard is reset first; `trap` is not cleared. -/
def execute (budget : Nat) (s : State) : ExecuteResult := executeLoop budget { s with jumpCount := 0 }

/-- `set_key(k, pressed)` (R240): an invalid key id is ignored. -/
def setKey (k : Nat) (pressed : Bool) (s : State) : State :=
  if k ≤ Config.keyCount - 1 then
    { s with keys := if pressed then s.keys ||| BitVec.twoPow 16 k else s.keys &&& ~~~(BitVec.twoPow 16 k) }
  else s

/-- `is_key_pressed(k)` (R240): false for an invalid key id (D22; log 21). -/
def isKeyPressed (k : Nat) (s : State) : Bool :=
  if k ≤ Config.keyCount - 1 then s.keys.getLsbD k else false

/-- The character of a cell (R27, R241). -/
def cellChar (b : Bool) : Char := if b then '#' else '.'

/-- One line of the display dump: 64 characters and a line feed. -/
def dumpLine (row : Vector Bool Config.displayWidth) : List Char := row.toList.map cellChar ++ ['\n']

/-- `dump_display()` (R241): 32 lines, row 0 first (D23; log 22). -/
def dumpDisplay (s : State) : List Char := s.disp.toList.flatMap dumpLine

/-- `request_stop()` (R242): `error` is unchanged. -/
def requestStop (s : State) : State := { s with trap := true }

/-- `set_fatal(msg)` (R242). -/
def setFatal (msg : String) (s : State) : State := s.fatal msg

/-- The host's observation of the buzzer flag (R243). -/
def readBuzzer (s : State) : Bool := s.buzzer

end Sys2Proof.Machine
end

