-- ==== Sys2Proof/WellFormed.lean ====
section
/-!
DEFINITION. Which terms of `Instr` stand for an encoded word. The types bound every field of the 24
instructions and of the group rows; only the fallback row carries a whole word, and that word must
be one that no other row claims (30_encoding R78).
-/

namespace Sys2Proof

open Codec

/-- Group 0 without its two members (R211). -/
def unclaimedGroup0 (w : Word) : Bool :=
  opOf (pairOf w).1 == 0x0 && !([0xE0, 0xEE] : List Byte).contains (nnOf (pairOf w).2)

/-- Group 8 without its nine members (R212). -/
def unclaimedGroup8 (w : Word) : Bool :=
  opOf (pairOf w).1 == 0x8 && ([0x8, 0x9, 0xA, 0xB, 0xC, 0xD, 0xF] : List Nibble).contains (nOf (pairOf w).2)

/-- Group 0xF without its three members (R214). -/
def unclaimedGroupF (w : Word) : Bool :=
  opOf (pairOf w).1 == 0xF && !([0x07, 0x15, 0x18] : List Byte).contains (nnOf (pairOf w).2)

/-- The instruction stands for a word of its own row. -/
def Instr.wellFormed : Instr → Bool
  | .cls | .ret | .jp _ | .call _ | .seVxNn _ _ | .sneVxNn _ _ | .seVxVy _ _ => true
  | .ldVxNn _ _ | .addVxNn _ _ | .ldVxVy _ _ | .orVxVy _ _ | .andVxVy _ _ | .xorVxVy _ _ => true
  | .addVxVy _ _ | .subVxVy _ _ | .shrVxVy _ _ | .subnVxVy _ _ | .shlVxVy _ _ => true
  | .ldINnn _ | .rndVxNn _ _ | .drwVxVyN _ _ _ | .ldVxDt _ | .ldDtVx _ | .ldStVx _ => true
  | .unimplementedGroup9 _ | .unimplementedGroupB _ | .unimplementedGroupE _ => true
  | .unimplementedFallback w => unclaimedGroup0 w || unclaimedGroup8 w || unclaimedGroupF w

/-- The instruction is one of the 24 of R76. -/
def Instr.implemented : Instr → Bool
  | .cls | .ret | .jp _ | .call _ | .seVxNn _ _ | .sneVxNn _ _ | .seVxVy _ _ => true
  | .ldVxNn _ _ | .addVxNn _ _ | .ldVxVy _ _ | .orVxVy _ _ | .andVxVy _ _ | .xorVxVy _ _ => true
  | .addVxVy _ _ | .subVxVy _ _ | .shrVxVy _ _ | .subnVxVy _ _ | .shlVxVy _ _ => true
  | .ldINnn _ | .rndVxNn _ _ | .drwVxVyN _ _ _ | .ldVxDt _ | .ldDtVx _ | .ldStVx _ => true
  | .unimplementedGroup9 _ | .unimplementedGroupB _ | .unimplementedGroupE _ => false
  | .unimplementedFallback _ => false

end Sys2Proof
end

