-- ==== Sys2Proof/Safety.lean ====
section
/-!
DEFINITION. What the statements are written in: the invariant of the engine's states (10_state R22, R23,
R30, R32, R40), and what an instruction leaves as it was.
-/

namespace Sys2Proof.Machine

/-- The invariant of the states a run reaches. -/
structure State.Inv (s : State) : Prop where
  /-- `SP <= STACK_DEPTH - 1` (R40) -/
  sp_slot : s.sp.toNat ≤ Config.stackDepth - 1
  /-- `buzzer = (ST != 0)` (R30, R40) -/
  buzzer_st : s.buzzer = decide (s.st ≠ 0)
  /-- `error` present implies `trap` (R32, R40) -/
  error_trap : s.error.isSome = true → s.trap = true
  /-- `PC <= 4098` (R22) -/
  pc_bound : s.pc.toNat ≤ 4098
  /-- a stacked value is the address of an executed `CALL`, or the zero of a slot not yet written (R22, R143) -/
  slot_bound : ∀ k : Fin Config.stackDepth, (s.stack.get k).toNat ≤ 4094
  /-- `stack[0]` is never written (R25) -/
  slot_zero : s.stack.get 0 = 0
  /-- the count never stays above the threshold (R142) -/
  guard_bound : s.jumpCount ≤ Config.jumpGuardThreshold
  /-- `Delay` is never reported (R133) -/
  no_delay : s.flow ≠ some .delay
  /-- RAM is in canonical form -/
  mem_wf : s.mem.wf = true

/-- The parts of the state that a frame speaks of, besides `V`, `PC` and the loop guard. -/
inductive Part where
  /-- `I` -/
  | addressRegister
  /-- every byte of RAM, read one at a time -/
  | ram
  /-- `SP` and the slots -/
  | callStack
  /-- every display cell -/
  | display
  /-- `DT` -/
  | delayTimer
  /-- `ST` and the buzzer flag -/
  | soundTimer
  /-- `trap` and `error` -/
  | trapState
  /-- the key state -/
  | keys
  /-- the reported flow (the model's own, log 11) -/
  | flow
  /-- the index of the next `ticks` (the model's own, log 9) -/
  | tickIndex
  /-- the index of the next random byte (the model's own, log 10) -/
  | drawIndex
  deriving DecidableEq, Repr

/-- A part is in `t` as it was in `s`. -/
def Part.same (p : Part) (s t : State) : Prop :=
  match p with
  | .addressRegister => t.i = s.i
  | .ram => ∀ a, t.ram a = s.ram a
  | .callStack => t.sp = s.sp ∧ t.stack = s.stack
  | .display => ∀ r c, t.disp.cell r c = s.disp.cell r c
  | .delayTimer => t.dt = s.dt
  | .soundTimer => t.st = s.st ∧ t.buzzer = s.buzzer
  | .trapState => t.trap = s.trap ∧ t.error = s.error
  | .keys => t.keys = s.keys
  | .flow => t.flow = s.flow
  | .tickIndex => t.ticksTaken = s.ticksTaken
  | .drawIndex => t.bytesDrawn = s.bytesDrawn

/-- Every part but those listed is as before. -/
def SameBut (parts : List Part) (s t : State) : Prop := ∀ p, p ∉ parts → p.same s t

/-- Every general register but those listed is as before. -/
def SameV (regs : List Reg) (s t : State) : Prop := ∀ r, r ∉ regs → t.getV r = s.getV r

/-- A sequential instruction: `PC + 2`, the run of jumps over, nothing but the listed registers and parts
changed. -/
def Sequential (regs : List Reg) (parts : List Part) (s t : State) : Prop :=
  t.pc = s.pc + 2 ∧ t.jumpCount = 0 ∧ SameV regs s t ∧ SameBut parts s t

/-- The register an instruction names as its destination `Vx`. -/
def destination : Instr → Option Reg
  | .ldVxNn x _ | .addVxNn x _ | .ldVxVy x _ | .orVxVy x _ | .andVxVy x _ | .xorVxVy x _ => some x
  | .addVxVy x _ | .subVxVy x _ | .shrVxVy x _ | .subnVxVy x _ | .shlVxVy x _ => some x
  | .rndVxNn x _ | .ldVxDt x => some x
  | .cls | .ret | .jp _ | .call _ | .seVxNn _ _ | .sneVxNn _ _ | .seVxVy _ _ | .ldINnn _ => none
  | .drwVxVyN _ _ _ | .ldDtVx _ | .ldStVx _ => none
  | .unimplementedGroup9 _ | .unimplementedGroupB _ | .unimplementedGroupE _ => none
  | .unimplementedFallback _ => none

/-- The six instructions that write `VF` as a flag (10_state R36). -/
def writesFlag : Instr → Bool
  | .addVxVy _ _ | .subVxVy _ _ | .subnVxVy _ _ | .shrVxVy _ _ | .shlVxVy _ _ | .drwVxVyN _ _ _ => true
  | .cls | .ret | .jp _ | .call _ | .seVxNn _ _ | .sneVxNn _ _ | .seVxVy _ _ | .ldVxNn _ _ | .addVxNn _ _ => false
  | .ldVxVy _ _ | .orVxVy _ _ | .andVxVy _ _ | .xorVxVy _ _ | .ldINnn _ | .rndVxNn _ _ => false
  | .ldVxDt _ | .ldDtVx _ | .ldStVx _ => false
  | .unimplementedGroup9 _ | .unimplementedGroupB _ | .unimplementedGroupE _ => false
  | .unimplementedFallback _ => false

/-- The registers an instruction may change: its destination, and `VF` for the six of R36. -/
def registersWritten (i : Instr) : List Reg :=
  (destination i).toList ++ (if writesFlag i then [regVF] else [])

/-- The parts an instruction may change (10_state R23, R25, R27 to R34, R37; 20_memory R52). -/
def partsWritten : Instr → List Part
  | .cls => [.display]
  | .ret | .call _ => [.callStack]
  | .jp _ => [.flow]
  | .seVxNn _ _ | .sneVxNn _ _ | .seVxVy _ _ | .ldVxNn _ _ | .addVxNn _ _ | .ldVxVy _ _ => []
  | .orVxVy _ _ | .andVxVy _ _ | .xorVxVy _ _ | .addVxVy _ _ | .subVxVy _ _ | .subnVxVy _ _ => []
  | .shrVxVy _ _ | .shlVxVy _ _ | .ldVxDt _ => []
  | .ldINnn _ => [.addressRegister]
  | .rndVxNn _ _ => [.drawIndex]
  | .drwVxVyN _ _ _ => [.display, .flow]
  | .ldDtVx _ => [.delayTimer]
  | .ldStVx _ => [.soundTimer]
  | .unimplementedGroup9 _ | .unimplementedGroupB _ | .unimplementedGroupE _ => [.trapState, .flow]
  | .unimplementedFallback _ => [.trapState, .flow]

/-- The instruction the next cycle executes, when it can fetch one (R123, R124). -/
def State.nextInstr (s : State) : Instr := decodePair (s.ram s.pc.toNat) (s.ram (s.pc.toNat + 1))

/-- The word the next cycle fetches, when it can (R123). -/
def State.wordAtPc (s : State) : Word := Codec.wordOf (s.ram s.pc.toNat, s.ram (s.pc.toNat + 1))

/-- A 1 bit of the `n`-row sprite at `I`, drawn at (`Vx`, `Vy`), lies over the cell (44_display R194 a):
sprite row `row`, column `col` covers `((Vy + row) mod 32, (Vx + col) mod 64)`, bit 7 leftmost (R193). -/
def State.spriteCovers (s : State) (x y : Reg) (n : Nat) (r : Fin Config.displayHeight) (c : Fin Config.displayWidth) : Prop :=
  ∃ row col, row < n ∧ col < 8 ∧ (s.ram (s.i.toNat + row)).getLsbD (7 - col) = true ∧
    ((s.getV y).toNat + row) % 32 = r.val ∧ ((s.getV x).toNat + col) % 64 = c.val

/-- A next state changed, a fault or a refusal as it is. -/
def mapNext (f : State → State) : Outcome State Fault Refusal → Outcome State Fault Refusal
  | .next s => .next (f s)
  | .fault r => .fault r
  | .refused r => .refused r

/-- Instructions one after the other, each from a state that reports no flow yet; a fault or a refusal
ends it. -/
def execAll : List Instr → State → Outcome State Fault Refusal
  | [], s => .next s
  | i :: is, s =>
    match exec i { s with flow := none } with
    | .next t => execAll is t
    | .fault r => .fault r
    | .refused r => .refused r

end Sys2Proof.Machine
end

