-- ==== Sys2Proof/Certificates/Slice0/Obligations.lean ====
section
/-!
DEFINITION. The statements about the model, each from the spec's rules. "Decision Dn" and "log n" in a
docstring name what rests on a choice (of the spec in 92_eei_decisions, or of the model in the log).
-/

open Sys2Proof Sys2Proof.Machine Sys2Proof.Codec

/-! ### Codec and encoding -/

/-- R103 to R108: each extractor's formula, wherever the bytes it needs are in the buffer. That `op_code` and
`op_x` answer on the last byte of a buffer is the model's choice, since R101 leaves it unsaid (decision D26,
log 24). -/
def Obligations.CodecExtractorsFollowTheirFormulas : Prop :=
  ∀ (buf : List Byte) (off : Nat),
    (∀ h : off < buf.length,
      (∃ op, opCode buf off = some op ∧ op.toNat = buf[off].toNat >>> 4) ∧
      (∃ x, opX buf off = some x ∧ x.toNat = buf[off].toNat &&& 0x0F)) ∧
    (∀ h : off + 1 < buf.length,
      (∃ y, opY buf off = some y ∧ y.toNat = buf[off + 1].toNat >>> 4) ∧
      (∃ n, opN buf off = some n ∧ n.toNat = buf[off + 1].toNat &&& 0x0F) ∧
      opNn buf off = some buf[off + 1] ∧
      (∃ nnn, opNnn buf off = some nnn ∧ nnn.toNat = ((buf[off].toNat &&& 0x0F) <<< 8) ||| buf[off + 1].toNat))

/-- R101: an extractor faults exactly when a byte it needs is beyond the buffer. That `op_code` and `op_x`
need the first byte only is the model's reading of what decision D26 leaves unsaid (log 24). -/
def Obligations.CodecFaultsExactlyBeyondTheBuffer : Prop :=
  ∀ (buf : List Byte) (off : Nat),
    (codecAt opCode buf off = .error (.codecWindow off) ↔ buf.length ≤ off) ∧
    (codecAt opX buf off = .error (.codecWindow off) ↔ buf.length ≤ off) ∧
    (codecAt opY buf off = .error (.codecWindow off) ↔ buf.length ≤ off + 1) ∧
    (codecAt opN buf off = .error (.codecWindow off) ↔ buf.length ≤ off + 1) ∧
    (codecAt opNn buf off = .error (.codecWindow off) ↔ buf.length ≤ off + 1) ∧
    (codecAt opNnn buf off = .error (.codecWindow off) ↔ buf.length ≤ off + 1)

/-- R112: every encoder's fields come back from the two bytes it gives, and every byte pair is what each
encoder gives for exactly one choice of fields. The set of encoders is decision D26. -/
def Obligations.CodecRoundTripsBothWays : Prop :=
  (∀ op nnn, opCode [(encodeNnn op nnn).1, (encodeNnn op nnn).2] 0 = some op ∧
    opNnn [(encodeNnn op nnn).1, (encodeNnn op nnn).2] 0 = some nnn) ∧
  (∀ op x nn, opCode [(encodeXnn op x nn).1, (encodeXnn op x nn).2] 0 = some op ∧
    opX [(encodeXnn op x nn).1, (encodeXnn op x nn).2] 0 = some x ∧
    opNn [(encodeXnn op x nn).1, (encodeXnn op x nn).2] 0 = some nn) ∧
  (∀ op x y n, opCode [(encodeXyn op x y n).1, (encodeXyn op x y n).2] 0 = some op ∧
    opX [(encodeXyn op x y n).1, (encodeXyn op x y n).2] 0 = some x ∧
    opY [(encodeXyn op x y n).1, (encodeXyn op x y n).2] 0 = some y ∧
    opN [(encodeXyn op x y n).1, (encodeXyn op x y n).2] 0 = some n) ∧
  (∀ p : Byte × Byte, ∃! f : Nibble × Addr, encodeNnn f.1 f.2 = p) ∧
  (∀ p : Byte × Byte, ∃! f : Nibble × Nibble × Byte, encodeXnn f.1 f.2.1 f.2.2 = p) ∧
  (∀ p : Byte × Byte, ∃! f : Nibble × Nibble × Nibble × Nibble, encodeXyn f.1 f.2.1 f.2.2.1 f.2.2.2 = p)

/-- R71: the six fields of a word, by their bits of the word and by their bits of its two bytes, and how they
overlap. -/
def Obligations.WordFieldsStandWhereTheTableSays : Prop :=
  (∀ w : Word,
    (opOf (pairOf w).1).toNat = w.toNat / 2 ^ 12 ∧
    (xOf (pairOf w).1).toNat = w.toNat / 2 ^ 8 % 2 ^ 4 ∧
    (yOf (pairOf w).2).toNat = w.toNat / 2 ^ 4 % 2 ^ 4 ∧
    (nOf (pairOf w).2).toNat = w.toNat % 2 ^ 4 ∧
    (nnOf (pairOf w).2).toNat = w.toNat % 2 ^ 8 ∧
    (nnnOf (pairOf w).1 (pairOf w).2).toNat = w.toNat % 2 ^ 12) ∧
  ∀ b0 b1 : Byte,
    (opOf b0).toNat = b0.toNat / 2 ^ 4 ∧ (xOf b0).toNat = b0.toNat % 2 ^ 4 ∧
    (yOf b1).toNat = b1.toNat / 2 ^ 4 ∧ (nOf b1).toNat = b1.toNat % 2 ^ 4 ∧
    nnOf b1 = b1 ∧ nnOf b1 = yOf b1 ++ nOf b1 ∧ nnnOf b0 b1 = xOf b0 ++ nnOf b1

/-- R53, R123, R124: the byte at the lower address holds bits 15..8 of the instruction, the byte at the next
address bits 7..0; the cycle's fetch gives the two bytes of that word, and the cycle, for every number of ticks,
executes what the word decodes to, in the state whose tick index and flow, the model's own fields, are moved on
and cleared (log 9, log 11); and the document's own bytes. -/
def Obligations.InstructionIsStoredHighByteFirst : Prop :=
  (∀ (s : State),
    (∀ k, k < 8 → s.wordAtPc.getLsbD (8 + k) = (s.ram s.pc.toNat).getLsbD k) ∧
    (∀ k, k < 8 → s.wordAtPc.getLsbD k = (s.ram (s.pc.toNat + 1)).getLsbD k) ∧
    (s.pc.toNat + 1 ≤ 4095 → ∃ p, s.fetch = .ok p ∧ wordOf p = s.wordAtPc) ∧
    (s.trap = false → s.pc.toNat + 1 ≤ 4095 →
      ∀ ticks, cycle ticks s = exec (decodeWord s.wordAtPc) (s.beginCycle ticks))) ∧
  wordOf (0x60, 0x05) = 0x6005 ∧ decode [0x60, 0x05] = .ok (.ldVxNn 0 5, []) ∧
  wordOf (0x00, 0xE0) = 0x00E0 ∧ decode [0x00, 0xE0] = .ok (.cls, [])

/-- Headline: decoding the encoding of a well-formed instruction gives it back, every operand at every
value (R81, R112). The opcode values are PRESUMED (log 14). -/
def Obligations.DecodeOfEncodeIsTheInstruction : Prop :=
  ∀ i : Instr, i.wellFormed = true → decodeWord (encodeWord i) = i

/-- R75, R81: every word decodes to a well-formed instruction, whose encoding is the word with its
don't-care bits cleared. That those bits are not looked at is decision D15 (log 15). -/
def Obligations.EncodeOfDecodeIsTheCanonicalWord : Prop :=
  ∀ w : Word, (decodeWord w).wellFormed = true ∧
    encodeWord (decodeWord w) =
      if w &&& 0xF0FF = 0x00E0 then 0x00E0
      else if w &&& 0xF0FF = 0x00EE then 0x00EE
      else if w &&& 0xF000 = 0x5000 then w &&& 0xFFF0
      else w

/-- R76, R80: the decoder picks the one row of the opcode map that the word selects, and an unimplemented
instruction exactly when no implemented row is selected. The opcode values are PRESUMED (log 14). -/
def Obligations.DecoderPicksTheSelectedRow : Prop :=
  ∀ w : Word,
    selects w (tableRow (decodeWord w)) = true ∧
    ((decodeWord w).implemented = true →
      ∀ row ∈ implementedRows, selects w row = true ↔ row = tableRow (decodeWord w)) ∧
    ((decodeWord w).implemented = false → ∀ row ∈ implementedRows, selects w row = false)

/-- R78, R211 to R214: which words are unimplemented, by their fields. The opcode values are PRESUMED
(log 14). -/
def Obligations.UnimplementedWordsAreTheListedSpace : Prop :=
  ∀ w : Word, (decodeWord w).implemented = false ↔
    (w.toNat / 4096 = 0 ∧ w.toNat % 256 ≠ 0xE0 ∧ w.toNat % 256 ≠ 0xEE) ∨
    (w.toNat / 4096 = 8 ∧ w.toNat % 16 ∈ [0x8, 0x9, 0xA, 0xB, 0xC, 0xD, 0xF]) ∨
    w.toNat / 4096 = 9 ∨ w.toNat / 4096 = 0xB ∨ w.toNat / 4096 = 0xE ∨
    (w.toNat / 4096 = 0xF ∧ w.toNat % 256 ≠ 0x07 ∧ w.toNat % 256 ≠ 0x15 ∧ w.toNat % 256 ≠ 0x18)

/-- Sample words of each family, written out from R76 and the vectors of 95_test_vectors; the byte pairs of
the first four are the document's own, the other opcode values PRESUMED (log 14), and the non-canonical
words rest on decision D15 (log 15). -/
def Obligations.SampleWordsDecodeAsListed : Prop :=
  decode [0x60, 0x05] = .ok (.ldVxNn 0 5, []) ∧
  decode [0x70, 0x03] = .ok (.addVxNn 0 3, []) ∧
  decode [0x00, 0xE0, 0x00, 0xEE] = .ok (.cls, [0x00, 0xEE]) ∧
  decode [0x00, 0xEE] = .ok (.ret, []) ∧
  decodeWord 0x120A = .jp 0x20A ∧
  decodeWord 0x0AE0 = .cls ∧
  decodeWord 0x512F = .seVxVy 1 2 ∧
  decodeWord 0x812E = .shlVxVy 1 2 ∧
  decodeWord 0xD012 = .drwVxVyN 0 1 2 ∧
  decodeWord 0xF107 = .ldVxDt 1 ∧
  decodeWord 0xE19E = .unimplementedGroupE 0x19E ∧
  decodeWord 0x0000 = .unimplementedFallback 0x0000

/-! ### The instruction cycle -/

/-- R120, R123, R124: with no trap and two bytes to fetch, a step executes the instruction the bytes at `PC`
decode to, in the state with the cycle's ticks applied; `PC` is still its address. The tick count is the
free value (log 9). -/
def Obligations.StepRunsTheDecodedInstruction : Prop :=
  ∀ (s : State) (i : Instr),
    s.trap = false → s.pc.toNat + 1 ≤ 4095 →
    decode [s.ram s.pc.toNat, s.ram (s.pc.toNat + 1)] = .ok (i, []) →
    i.wellFormed = true ∧
    step s = exec i (s.beginCycle (Config.freeTicks s.ticksTaken)) ∧
    (s.beginCycle (Config.freeTicks s.ticksTaken)).pc = s.pc

/-- R120, R122: what is done to the state before the instruction executes, for EVERY number of ticks: the
timers count down and stop at 0, the buzzer flag says whether `ST` is not 0 (decision D18), no flow is
reported yet (log 11), the tick index moves on (log 9), and nothing else changes. -/
def Obligations.TicksAreAppliedBeforeTheInstruction : Prop :=
  ∀ (s : State) (ticks : Nat),
    (s.beginCycle ticks).dt.toNat = s.dt.toNat - ticks ∧
    (s.beginCycle ticks).st.toNat = s.st.toNat - ticks ∧
    (s.beginCycle ticks).buzzer = decide (s.st.toNat > ticks) ∧
    (s.beginCycle ticks).flow = none ∧
    (s.beginCycle ticks).ticksTaken = s.ticksTaken + 1 ∧
    (s.beginCycle ticks).pc = s.pc ∧ (s.beginCycle ticks).jumpCount = s.jumpCount ∧
    SameV [] s (s.beginCycle ticks) ∧
    SameBut [.delayTimer, .soundTimer, .flow, .tickIndex] s (s.beginCycle ticks)

/-- R28, R29, R122: applying `n` ticks at once is applying the single tick `n` times. The premise is the
invariant of the buzzer flag (decision D18). -/
def Obligations.TicksAtOnceAreSingleTicks : Prop :=
  ∀ (s : State) (n : Nat), s.buzzer = decide (s.st ≠ 0) → s.applyTicks n = State.tick^[n] s

/-- R121: with `trap` set a step reports `Error` with the recorded text, or `Interrupt` when there is none,
and changes nothing else (decision D17). -/
def Obligations.TrapCheckEndsTheCycle : Prop :=
  ∀ (s : State), s.trap = true →
    ∃ t, step s = .next t ∧
      (s.error = none → t.flow = some .interrupt) ∧
      (∀ msg, s.error = some msg → t.flow = some (.error msg)) ∧
      { t with flow := s.flow } = s

/-- R228: a step faults exactly for the causes listed, with the stated index: the fetch out of range, a
sprite out of range, a full stack, an empty stack. The stack and sprite causes are decisions D4, D13 (log 12);
the last slot's number 15 is STACK_DEPTH - 1 with the depth PRESUMED (decision D2, log 2); the last cause is met
by no reachable state (log 13). -/
def Obligations.StepFaultsExactlyForTheListedCauses : Prop :=
  ∀ (s : State) (f : Fault), step s = .fault f ↔
    s.trap = false ∧
    ((4095 < s.pc.toNat + 1 ∧ f = .fetchOutOfRange s.pc.toNat) ∨
     (s.pc.toNat + 1 ≤ 4095 ∧
      ((∃ x y n, s.nextInstr = .drwVxVyN x y n ∧ 0 < n.toNat ∧ 4095 < s.i.toNat + n.toNat - 1 ∧
          f = .spriteOutOfRange (s.i.toNat + n.toNat - 1)) ∨
       (∃ nnn, s.nextInstr = .call nnn ∧ 15 < s.sp.toNat + 1 ∧ f = .stackOverflow) ∨
       (s.nextInstr = .ret ∧ s.sp.toNat = 0 ∧ f = .stackUnderflow) ∨
       (s.nextInstr = .ret ∧ 15 < s.sp.toNat ∧ f = .stackSlotOutOfRange s.sp.toNat))))

/-- R126, R221 to R225, R133: what each cycle reports, completely; `Delay` never, and no step is refused. -/
def Obligations.FlowOfEveryCycle : Prop :=
  ∀ (s : State),
    (∀ r, step s ≠ .refused r) ∧
    ∀ t, step s = .next t →
      (t.flow = some .draw ↔ s.trap = false ∧ ∃ x y n, s.nextInstr = .drwVxVyN x y n) ∧
      (t.flow = some .jump ↔ s.trap = false ∧ (∃ nnn, s.nextInstr = .jp nnn) ∧
        s.jumpCount + 1 > Config.jumpGuardThreshold) ∧
      (t.flow = some .interrupt ↔ s.trap = true ∧ s.error = none) ∧
      (∀ msg, t.flow = some (.error msg) ↔
        (s.trap = true ∧ s.error = some msg) ∨
        (s.trap = false ∧ s.nextInstr.implemented = false ∧ msg = Config.errorMessage)) ∧
      t.flow ≠ some .delay

/-- R31, R32, R226: only an unimplemented word sets the trap, it records the fixed message with it, and no
cycle clears either. -/
def Obligations.TrapIsStickyAndSetOnlyByUnimplementedWords : Prop :=
  ∀ (s t : State), step s = .next t →
    (t.trap = true ↔ s.trap = true ∨ s.nextInstr.implemented = false) ∧
    (s.trap = true → t.error = s.error) ∧
    (s.trap = false → s.nextInstr.implemented = true → t.error = s.error) ∧
    (s.trap = false → s.nextInstr.implemented = false → t.error = some Config.errorMessage)

/-- Headline: every step keeps the invariant (R22, R25, R30, R32, R40, R133, R142, canonical RAM), whatever
the free values and the open parameters are. -/
def Obligations.StepKeepsTheInvariant : Prop :=
  ∀ (s t : State), s.Inv → step s = .next t → t.Inv

/-- R39, R40, R260: the engine right after creation meets the invariant. -/
def Obligations.ResetMeetsTheInvariant : Prop := State.reset.Inv

/-- R39, R260: the values after creation. They are decision D5 (log 4), the value of `PROG_BASE` is PRESUMED
(log 1), and that of an unlisted byte of RAM is log 5. -/
def Obligations.ResetValues : Prop :=
  (∀ r, State.reset.getV r = 0) ∧ State.reset.i = 0 ∧ State.reset.pc.toNat = Config.progBase ∧
  State.reset.sp = 0 ∧ (∀ k, State.reset.stack.get k = 0) ∧ (∀ a, State.reset.ram a = 0) ∧
  (∀ r c, State.reset.disp.cell r c = false) ∧ State.reset.dt = 0 ∧ State.reset.st = 0 ∧
  State.reset.buzzer = false ∧ State.reset.trap = false ∧ State.reset.error = none ∧
  State.reset.keys = 0 ∧ State.reset.jumpCount = 0

/-- R260, R210: an engine that has had no load yields `Error` at its first cycle, `PC` still at the load
base (decision D16), with RAM and registers as they were created. -/
def Obligations.UnloadedEngineYieldsErrorAtOnce : Prop :=
  ∃ t, step State.reset = .next t ∧ t.flow = some (.error Config.errorMessage) ∧ t.trap = true ∧
    t.error = some Config.errorMessage ∧ t.pc.toNat = Config.progBase ∧
    SameV [] State.reset t ∧ SameBut [.trapState, .flow, .tickIndex] State.reset t

/-! ### What no instruction does -/

/-- R36, R37, R52: every instruction leaves what it does not write: each general register that is neither its
destination nor `VF` of the six flag writers, every byte of RAM, the keys, and each other part that is not
its own (`VF` after the logic group rests on decision D9). -/
def Obligations.InstructionsChangeOnlyWhatTheyWrite : Prop :=
  ∀ (i : Instr) (s t : State), exec i s = .next t →
    SameV (registersWritten i) s t ∧ SameBut (partsWritten i) s t

/-- R125: every implemented instruction but `JP` ends the run of jumps; an unimplemented word leaves the
count (decision D14, log 7). -/
def Obligations.EveryInstructionButJpEndsTheJumpRun : Prop :=
  ∀ (i : Instr) (s t : State), exec i s = .next t →
    (i.implemented = true → (∀ nnn, i ≠ .jp nnn) → t.jumpCount = 0) ∧
    (i.implemented = false → t.jumpCount = s.jumpCount)

/-- R52, R63: no step writes RAM, so what is fetched from any address stays the same. -/
def Obligations.NoStepWritesRam : Prop :=
  ∀ (s t : State), step s = .next t → t.mem = s.mem ∧ ∀ a, t.ram a = s.ram a

/-- R33: no step reads the keys: with other keys it does the same and leaves those keys. -/
def Obligations.NoStepReadsTheKeys : Prop :=
  ∀ (s : State) (keys : BitVec 16),
    step { s with keys := keys } = mapNext (fun t => { t with keys := keys }) (step s)

/-- R29, R30: no instruction reads `ST` or the buzzer flag: two states that differ only there go to states
that differ only there, or to the same fault. -/
def Obligations.NoInstructionReadsTheSoundTimer : Prop :=
  ∀ (i : Instr) (s : State) (st : Byte) (buzzer : Bool),
    mapNext (fun t => { t with st := 0, buzzer := false }) (exec i { s with st := st, buzzer := buzzer }) =
    mapNext (fun t => { t with st := 0, buzzer := false }) (exec i s)

/-! ### Loads, arithmetic, logic, shifts -/

/-- R161, R163, R201: the three loads into a register complete, with the value of their source; `VF` is
untouched unless it is the destination (D9), and the PC advance of the last two is decision D8. -/
def Obligations.LoadsWriteTheirSource : Prop :=
  ∀ (x y : Reg) (nn : Byte) (s : State),
    (∃ t, exec (.ldVxNn x nn) s = .next t ∧ t.getV x = nn ∧ Sequential [x] [] s t) ∧
    (∃ t, exec (.ldVxVy x y) s = .next t ∧ t.getV x = s.getV y ∧ Sequential [x] [] s t) ∧
    (∃ t, exec (.ldVxDt x) s = .next t ∧ t.getV x = s.dt ∧ Sequential [x] [] s t)

/-- R162: `ADD Vx,nn` completes with the sum modulo 256 and writes no flag; the end of the jump run is
decision D14. -/
def Obligations.AddImmediateWrapsWithoutFlag : Prop :=
  ∀ (x : Reg) (nn : Byte) (s : State),
    ∃ t, exec (.addVxNn x nn) s = .next t ∧
      (t.getV x).toNat = ((s.getV x).toNat + nn.toNat) % 256 ∧ Sequential [x] [] s t

/-- R164, R165, R166: the logic group completes, bit by bit, and leaves `VF` (D9) unless it is `Vx`; the PC
advance is decision D8. -/
def Obligations.LogicGroupWorksBitByBit : Prop :=
  ∀ (x y : Reg) (s : State),
    (∃ t, exec (.orVxVy x y) s = .next t ∧ Sequential [x] [] s t ∧
      ∀ k, k < 8 → (t.getV x).getLsbD k = ((s.getV x).getLsbD k || (s.getV y).getLsbD k)) ∧
    (∃ t, exec (.andVxVy x y) s = .next t ∧ Sequential [x] [] s t ∧
      ∀ k, k < 8 → (t.getV x).getLsbD k = ((s.getV x).getLsbD k && (s.getV y).getLsbD k)) ∧
    (∃ t, exec (.xorVxVy x y) s = .next t ∧ Sequential [x] [] s t ∧
      ∀ k, k < 8 → (t.getV x).getLsbD k = ((s.getV x).getLsbD k ^^ (s.getV y).getLsbD k))

/-- R167: `ADD Vx,Vy` completes with the wrapped sum and `VF` the carry; for `x = 15` the carry is what
remains (decision D10, log 16). -/
def Obligations.AddSetsCarry : Prop :=
  ∀ (x y : Reg) (s : State),
    ∃ t, exec (.addVxVy x y) s = .next t ∧
      (x ≠ regVF → (t.getV x).toNat = ((s.getV x).toNat + (s.getV y).toNat) % 256) ∧
      (t.getV regVF).toNat = (if (s.getV x).toNat + (s.getV y).toNat > 255 then 1 else 0) ∧
      Sequential [x, regVF] [] s t

/-- R168, R170: `SUB` and `SUBN` complete with the wrapped difference (in the order of each) and `VF` the
not-borrow; for `x = 15` the flag is what remains (decision D10, log 16). -/
def Obligations.SubtractionsSetNotBorrow : Prop :=
  ∀ (x y : Reg) (s : State),
    (∃ t, exec (.subVxVy x y) s = .next t ∧
      (x ≠ regVF → (t.getV x).toNat = ((s.getV x).toNat + 256 - (s.getV y).toNat) % 256) ∧
      (t.getV regVF).toNat = (if (s.getV y).toNat > (s.getV x).toNat then 0 else 1) ∧
      Sequential [x, regVF] [] s t) ∧
    (∃ t, exec (.subnVxVy x y) s = .next t ∧
      (x ≠ regVF → (t.getV x).toNat = ((s.getV y).toNat + 256 - (s.getV x).toNat) % 256) ∧
      (t.getV regVF).toNat = (if (s.getV x).toNat > (s.getV y).toNat then 0 else 1) ∧
      Sequential [x, regVF] [] s t)

/-- R169, R171: the shifts complete, by one bit, `VF` the bit shifted out and `Vy` of no account; for `x = 15`
the flag is written first and then shifted (decision D11, log 16). -/
def Obligations.ShiftsCaptureTheBitShiftedOut : Prop :=
  ∀ (x y : Reg) (s : State),
    (∃ t, exec (.shrVxVy x y) s = .next t ∧ Sequential [x, regVF] [] s t ∧
      (x ≠ regVF → (t.getV x).toNat = (s.getV x).toNat / 2 ∧ (t.getV regVF).toNat = (s.getV x).toNat % 2) ∧
      (x = regVF → t.getV regVF = 0)) ∧
    (∃ t, exec (.shlVxVy x y) s = .next t ∧ Sequential [x, regVF] [] s t ∧
      (x ≠ regVF → (t.getV x).toNat = (s.getV x).toNat * 2 % 256 ∧ (t.getV regVF).toNat = (s.getV x).toNat / 128) ∧
      (x = regVF → (t.getV regVF).toNat = (s.getV x).toNat / 128 * 2))

/-- R172: `LD I,nnn` completes; only `I` changes besides `PC` and the jump count. -/
def Obligations.LoadAddressRegister : Prop :=
  ∀ (nnn : Addr) (s : State),
    ∃ t, exec (.ldINnn nnn) s = .next t ∧ t.i = nnn ∧ Sequential [] [.addressRegister] s t

/-- R173: `RND` completes for every drawn byte: the result is the byte and the mask, so no bit outside the
mask is set; the byte is the free value at the draw index (log 10), and the index moves on. -/
def Obligations.RandomByteIsMasked : Prop :=
  ∀ (x : Reg) (nn : Byte) (s : State),
    ∃ t, exec (.rndVxNn x nn) s = .next t ∧
      t.getV x = Config.freeByte s.bytesDrawn &&& nn ∧
      (∀ k, nn.getLsbD k = false → (t.getV x).getLsbD k = false) ∧
      t.bytesDrawn = s.bytesDrawn + 1 ∧ Sequential [x] [.drawIndex] s t

/-! ### Control flow -/

/-- R144, R145, R146: the skips complete, `PC + 4` when the condition holds and `PC + 2` when it does not,
and change nothing else but the jump count. -/
def Obligations.SkipsCompareAndAdvance : Prop :=
  ∀ (x y : Reg) (nn : Byte) (s : State),
    (∃ t, exec (.seVxNn x nn) s = .next t ∧ t.pc = (if s.getV x = nn then s.pc + 4 else s.pc + 2) ∧
      t.jumpCount = 0 ∧ SameV [] s t ∧ SameBut [] s t) ∧
    (∃ t, exec (.sneVxNn x nn) s = .next t ∧ t.pc = (if s.getV x ≠ nn then s.pc + 4 else s.pc + 2) ∧
      t.jumpCount = 0 ∧ SameV [] s t ∧ SameBut [] s t) ∧
    (∃ t, exec (.seVxVy x y) s = .next t ∧ t.pc = (if s.getV x = s.getV y then s.pc + 4 else s.pc + 2) ∧
      t.jumpCount = 0 ∧ SameV [] s t ∧ SameBut [] s t)

/-- R142: `JP` completes at its target; the count goes up, and when it would exceed the threshold it is
cleared and `Jump` is yielded (strictness and clearing are decision D14, log 7). -/
def Obligations.JumpCountsAndYieldsAboveTheThreshold : Prop :=
  ∀ (nnn : Addr) (s : State),
    ∃ t, exec (.jp nnn) s = .next t ∧ t.pc.toNat = nnn.toNat ∧
      (s.jumpCount + 1 ≤ Config.jumpGuardThreshold → t.jumpCount = s.jumpCount + 1 ∧ t.flow = s.flow) ∧
      (s.jumpCount + 1 > Config.jumpGuardThreshold → t.jumpCount = 0 ∧ t.flow = some .jump) ∧
      SameV [] s t ∧ SameBut [.flow] s t

/-- R142: a run of consecutive jumps from a count of 0 yields `Jump` on exactly its members number `T + 1`,
`2 (T + 1)` and so on, and the count is the length modulo `T + 1` (decision D14, log 7). -/
def Obligations.JumpRunYieldsAtMultiplesOfTheThreshold : Prop :=
  ∀ (targets : List Addr) (last : Addr) (s : State), s.jumpCount = 0 →
    ∃ t, execAll ((targets ++ [last]).map Instr.jp) s = .next t ∧ t.pc.toNat = last.toNat ∧
      t.jumpCount = (targets.length + 1) % (Config.jumpGuardThreshold + 1) ∧
      t.flow = (if (targets.length + 1) % (Config.jumpGuardThreshold + 1) = 0 then some .jump else none)

/-- R143: with a free slot `CALL` completes: `SP` up by one, the address of the `CALL` itself in the slot it
then names, every other slot as before, `PC` at the target. The depth is decision D2. -/
def Obligations.CallPushesItsOwnAddress : Prop :=
  ∀ (nnn : Addr) (s : State), s.sp.toNat + 1 ≤ Config.stackDepth - 1 →
    ∃ t, exec (.call nnn) s = .next t ∧ t.sp.toNat = s.sp.toNat + 1 ∧
      (∀ k, t.stack.get k = if k.val = s.sp.toNat + 1 then s.pc else s.stack.get k) ∧
      t.pc.toNat = nnn.toNat ∧ t.jumpCount = 0 ∧ SameV [] s t ∧ SameBut [.callStack] s t

/-- R141: with a slot to pop `RET` completes: `PC` is the slot `SP` names plus `RET_OFFSET`, which is 0 or 2
(OPEN, D12, log 6), `SP` is down by one and no slot changes. -/
def Obligations.ReturnPopsTheSlotSpNames : Prop :=
  ∀ (s : State) (k : Fin Config.stackDepth), s.sp.toNat = k.val → k.val ≠ 0 →
    ∃ t, exec .ret s = .next t ∧ t.pc = s.stack.get k + BitVec.ofNat 16 Config.retOffset ∧
      (Config.retOffset = 0 ∨ Config.retOffset = 2) ∧
      t.sp.toNat + 1 = s.sp.toNat ∧ t.stack = s.stack ∧ t.jumpCount = 0 ∧
      SameV [] s t ∧ SameBut [.callStack] s t

/-- R141, R143, R228: `RET` with an empty stack and `CALL` with a full one fault (decision D13, log 12). -/
def Obligations.StackFaultsAtBothEnds : Prop :=
  ∀ (nnn : Addr) (s : State),
    (s.sp = 0 → exec .ret s = .fault .stackUnderflow) ∧
    (s.sp.toNat + 1 > Config.stackDepth - 1 → exec (.call nnn) s = .fault .stackOverflow)

/-- R141, R143: a subroutine may do whatever it likes, calls of its own included: with `SP` back at its entry
value and the slot `SP` then names as the `CALL` left it, `RET` comes back to the `CALL` plus `RET_OFFSET`
with the stack pointer of before the call (D12, log 6). -/
def Obligations.ReturnComesBackToTheCall : Prop :=
  ∀ (nnn : Addr) (s : State), s.sp.toNat + 1 ≤ Config.stackDepth - 1 →
    ∃ t, exec (.call nnn) s = .next t ∧
      ∀ t' : State, t'.sp = t.sp → (∀ k, k.val = t.sp.toNat → t'.stack.get k = t.stack.get k) →
        ∃ u, exec .ret t' = .next u ∧ u.pc = s.pc + BitVec.ofNat 16 Config.retOffset ∧ u.sp = s.sp

/-! ### Display and timers -/

/-- R191: `CLS` completes with every cell unset; `VF` and the reported flow are untouched. -/
def Obligations.ClearUnsetsEveryCell : Prop :=
  ∀ (s : State),
    ∃ t, exec .cls s = .next t ∧ (∀ r c, t.disp.cell r c = false) ∧ Sequential [] [.display] s t

/-- R192, R194: with its sprite in RAM (or no row) `DRW` completes: `VF` is 1 iff some cell goes from set to
unset, else 0; `Draw` is yielded; nothing but `VF` and the display changes besides. With no row the display
is unchanged and `VF` is 0 (decisions D8, D19, log 17, 18). -/
def Obligations.DrawReportsCollisionAndYields : Prop :=
  ∀ (x y : Reg) (n : Nibble) (s : State), (n.toNat = 0 ∨ s.i.toNat + n.toNat - 1 ≤ 4095) →
    ∃ t, exec (.drwVxVyN x y n) s = .next t ∧
      (t.getV regVF = 1 ↔ ∃ r c, s.disp.cell r c = true ∧ t.disp.cell r c = false) ∧
      (t.getV regVF = 0 ∨ t.getV regVF = 1) ∧
      (n.toNat = 0 → t.disp = s.disp ∧ t.getV regVF = 0) ∧
      t.flow = some .draw ∧ Sequential [regVF] [.display, .flow] s t

/-- R192 to R194: the row-by-row, bit-by-bit blit is the exclusive-or of the display with the
sprite's picture: a cell is inverted exactly when a 1 bit of the wrapped sprite lies over it, and no cell is
touched twice. Bit 7 leftmost is PRESUMED (G4), the rest of the picture decision D19 (log 18). -/
def Obligations.DrawInvertsExactlyTheCoveredCells : Prop :=
  ∀ (x y : Reg) (n : Nibble) (s t : State), exec (.drwVxVyN x y n) s = .next t →
    ∀ r c, (s.spriteCovers x y n.toNat r c → t.disp.cell r c = !s.disp.cell r c) ∧
      (¬ s.spriteCovers x y n.toNat r c → t.disp.cell r c = s.disp.cell r c)

/-- R192, R228: a sprite byte above 4095 faults before any change (decision D4, log 12, 18). -/
def Obligations.DrawFaultsBeyondRam : Prop :=
  ∀ (x y : Reg) (n : Nibble) (s : State), 0 < n.toNat → 4095 < s.i.toNat + n.toNat - 1 →
    exec (.drwVxVyN x y n) s = .fault (.spriteOutOfRange (s.i.toNat + n.toNat - 1))

/-- R194 (e) as far as R192 allows it (log 18): a second equal draw at the same place restores the display, and
it reports a collision iff a 1 bit of the sprite lay over a cell that was unset before the first; so, where
no such cell was set, iff the sprite has a 1 bit. The second draw may come after anything that left the
display, `I`, the sprite's bytes and both coordinates as they were; with `x = 15` or `y = 15` the coordinate
must have been put back, since the first draw writes `VF`; else it may follow at once. -/
def Obligations.DrawTwiceRestoresTheDisplay : Prop :=
  ∀ (x y : Reg) (n : Nibble) (s : State), (n.toNat = 0 ∨ s.i.toNat + n.toNat - 1 ≤ 4095) →
    ∃ t, exec (.drwVxVyN x y n) s = .next t ∧
      (∀ t' : State, t'.disp = t.disp → t'.i = s.i → t'.getV x = s.getV x → t'.getV y = s.getV y →
        (∀ row, row < n.toNat → t'.ram (s.i.toNat + row) = s.ram (s.i.toNat + row)) →
        ∃ u, exec (.drwVxVyN x y n) t' = .next u ∧ u.disp = s.disp ∧
          (u.getV regVF = 1 ↔ ∃ r c, s.spriteCovers x y n.toNat r c ∧ s.disp.cell r c = false) ∧
          ((∀ r c, s.spriteCovers x y n.toNat r c → s.disp.cell r c = false) →
            (u.getV regVF = 1 ↔ ∃ row, row < n.toNat ∧ s.ram (s.i.toNat + row) ≠ 0))) ∧
      (x ≠ regVF → y ≠ regVF →
        ∃ u, exec (.drwVxVyN x y n) t = .next u ∧ u.disp = s.disp ∧
          (u.getV regVF = 1 ↔ ∃ r c, s.spriteCovers x y n.toNat r c ∧ s.disp.cell r c = false))

/-- R194 (e), its second half to the letter: on ANY display the second of two equal draws reports a collision
iff the sprite has a 1 bit. Expected to FAIL of the model, which follows R192 and vector S5 (log 18): where the sprite lies over set cells only, the first draw
clears them and the second sets them again, with no collision. -/
def Obligations.SecondDrawCollidesIffTheSpriteHasABit : Prop :=
  ∀ (x y : Reg) (n : Nibble) (s t u : State), x ≠ regVF → y ≠ regVF →
    exec (.drwVxVyN x y n) s = .next t → exec (.drwVxVyN x y n) t = .next u →
    (u.getV regVF = 1 ↔ ∃ row, row < n.toNat ∧ s.ram (s.i.toNat + row) ≠ 0)

/-- R202, R203: the two timer writes complete; `ST` re-evaluates the buzzer flag (decision D18, log 19), `DT`
does not touch it; the PC advance is decision D8. -/
def Obligations.TimerWritesSetTheirTimer : Prop :=
  ∀ (x : Reg) (s : State),
    (∃ t, exec (.ldDtVx x) s = .next t ∧ t.dt = s.getV x ∧ Sequential [] [.delayTimer] s t) ∧
    (∃ t, exec (.ldStVx x) s = .next t ∧ t.st = s.getV x ∧ t.buzzer = decide (s.getV x ≠ 0) ∧
      Sequential [] [.soundTimer] s t)

/-- R210, R213, R226: the four rows of unimplemented words take the exception `UnsupportedOpcode`: trap set,
the fixed message recorded, `Error` yielded with it, `PC`, jump count and all else unchanged (decision D16,
log 8). -/
def Obligations.UnimplementedWordsTrapPrecisely : Prop :=
  ∀ (i : Instr) (s : State), i.implemented = false →
    ∃ t, exec i s = .next t ∧ t.trap = true ∧ t.error = some Config.errorMessage ∧
      t.flow = some (.error Config.errorMessage) ∧ t.pc = s.pc ∧ t.jumpCount = s.jumpCount ∧
      SameV [] s t ∧ SameBut [.trapState, .flow] s t

/-! ### Host transactions -/

/-- R58, R261: a load that fits lays out RAM as zeros, the program at `PROG_BASE`, zeros; it zeroes stack and
display, sets `PC`, `SP`, the jump count and the trap (decisions D6, D17), and leaves registers, timers,
buzzer and keys (D32, D34; log 23). -/
def Obligations.LoadLaysOutTheProgram : Prop :=
  ∀ (bytes : List Byte) (s : State), bytes.length ≤ Config.progCapacity →
    ∃ t, load bytes s = .next t ∧
      (∀ k (h : k < bytes.length), t.ram (Config.progBase + k) = bytes[k]) ∧
      (∀ a, a < Config.progBase ∨ Config.progBase + bytes.length ≤ a → t.ram a = 0) ∧
      (∀ k, t.stack.get k = 0) ∧ (∀ r c, t.disp.cell r c = false) ∧
      t.pc.toNat = Config.progBase ∧ t.sp = 0 ∧ t.jumpCount = 0 ∧ t.trap = false ∧ t.error = none ∧
      SameV [] s t ∧ SameBut [.ram, .callStack, .display, .trapState] s t

/-- R229: a load of more bytes than fit is refused as `LargeProgram`, with no next state; one of exactly
`PROG_CAPACITY` bytes, or fewer, is accepted. -/
def Obligations.LargeProgramIsRefused : Prop :=
  ∀ (bytes : List Byte) (s : State),
    (bytes.length > Config.ramSize - Config.progBase → load bytes s = .refused (.largeProgram bytes.length)) ∧
    (bytes.length ≤ Config.ramSize - Config.progBase → ∃ t, load bytes s = .next t)

/-- R40, R236: every transaction of the host that changes the state keeps the invariant: `load`, `set_key`,
`request_stop`, `set_fatal`, and `resume` and `execute` in every state they return or are found running in
(the budget is log 25). -/
def Obligations.TransactionsKeepTheInvariant : Prop :=
  ∀ (s : State), s.Inv →
    (∀ bytes t, load bytes s = .next t → t.Inv) ∧
    (∀ k pressed, (setKey k pressed s).Inv) ∧
    (requestStop s).Inv ∧ (∀ msg, (setFatal msg s).Inv) ∧
    (∀ k f t, resume k s = .yielded f t → t.Inv) ∧ (∀ k t, resume k s = .running t → t.Inv) ∧
    (∀ k t, execute k s = .interrupted t → t.Inv) ∧ (∀ k msg t, execute k s = .runtime msg t → t.Inv) ∧
    (∀ k t, execute k s = .running t → t.Inv)

/-- R33, R240: bit `k` of the key state is key `k`: a setting writes that bit alone and a query reads it; an
invalid id is ignored by both; and no other state changes (which bit is which key, and the answer to an
invalid query, are decision D22, log 21). -/
def Obligations.KeysAreSetOneByOne : Prop :=
  ∀ (k j : Nat) (pressed : Bool) (s : State),
    (k ≤ 15 → (setKey k pressed s).keys.getLsbD j = if j = k then pressed else s.keys.getLsbD j) ∧
    (k ≤ 15 → isKeyPressed k s = s.keys.getLsbD k) ∧
    isKeyPressed j (setKey k pressed s) = (if j = k ∧ k ≤ 15 then pressed else isKeyPressed j s) ∧
    (15 < k → setKey k pressed s = s ∧ isKeyPressed k s = false) ∧
    { setKey k pressed s with keys := s.keys } = s

/-- R241: the display dump is 32 lines, top row first, each of 64 characters and a line feed (the line format
is decision D23, log 22). -/
def Obligations.DumpShowsEveryCell : Prop :=
  ∀ (s : State),
    (dumpDisplay s).length = 32 * 65 ∧
    (∀ r c, (dumpDisplay s)[r.val * 65 + c.val]? = some (if s.disp.cell r c then '#' else '.')) ∧
    (∀ r, r < 32 → (dumpDisplay s)[r * 65 + 64]? = some '\n')

/-- R242, R223, R224, R231: after a stop request the next cycle yields `Interrupt` if no error is recorded,
after a fatal error `Error` with its text, and a fatal error wins over a stop request in either order. -/
def Obligations.HostStopsAreSeenAtTheNextCycle : Prop :=
  ∀ (s : State) (msg : String),
    (s.error = none → ∃ t, step (requestStop s) = .next t ∧ t.flow = some .interrupt) ∧
    (∃ t, step (setFatal msg s) = .next t ∧ t.flow = some (.error msg)) ∧
    (∃ t, step (requestStop (setFatal msg s)) = .next t ∧ t.flow = some (.error msg)) ∧
    (∃ t, step (setFatal msg (requestStop s)) = .next t ∧ t.flow = some (.error msg))

/-- R127, R128: `execute` re-enters a transient flow by itself: when `resume` returns `Draw` or `Jump`, the
loop of `execute` goes on from the state it returned, some cycles of its budget spent (log 25). -/
def Obligations.ExecuteReentersTransientFlows : Prop :=
  ∀ (k : Nat) (s t : State) (f : Flow), resume k s = .yielded f t → (f = .draw ∨ f = .jump) →
    ∃ j, j ≤ k ∧ ∀ m, executeLoop (j + m) s = executeLoop m t

/-- R128, R238: `execute` returns success only stopped by a trap without an error, and `Runtime` only trapped
with exactly the text it carries. -/
def Obligations.ExecuteEndsOnlyTrapped : Prop :=
  ∀ (k : Nat) (s t : State),
    (execute k s = .interrupted t → t.trap = true ∧ t.error = none) ∧
    (∀ msg, execute k s = .runtime msg t → t.trap = true ∧ t.error = some msg)

/-- R127, R233: once a `resume` has returned `Interrupt` or `Error`, every further one returns the same flow at
once and changes nothing (decision D17). -/
def Obligations.ResumeAfterAStopRepeatsIt : Prop :=
  ∀ (k m : Nat) (s t : State) (f : Flow), resume k s = .yielded f t →
    (f = .interrupt ∨ ∃ msg, f = .error msg) → resume (m + 1) t = .yielded f t

/-! ### The delay timer as a whole -/

/-- R28: `DT` is written by `LD DT,Vx` alone of all instructions, read by `LD Vx,DT` alone, and decremented by
each timer tick, one after the other, staying at 0. -/
def Obligations.DelayTimerIsWrittenReadAndTickedAsStated : Prop :=
  (∀ (x : Reg) (s : State),
    (∃ t, exec (.ldDtVx x) s = .next t ∧ t.dt = s.getV x) ∧ ∃ t, exec (.ldVxDt x) s = .next t ∧ t.getV x = s.dt) ∧
  (∀ (i : Instr) (s t : State), (∀ x, i ≠ .ldDtVx x) → exec i s = .next t → t.dt = s.dt) ∧
  (∀ (i : Instr) (s : State) (dt : Byte), (∀ x, i ≠ .ldVxDt x) →
    mapNext (fun t => { t with dt := 0 }) (exec i { s with dt := dt }) =
      mapNext (fun t => { t with dt := 0 }) (exec i s)) ∧
  (∀ s : State, s.tick.dt = if s.dt > 0 then s.dt - 1 else 0) ∧
  ∀ (s : State) (n : Nat), (s.applyTicks n).dt = (State.tick^[n] s).dt
end

