-- ==== Sys2Proof/Laws/Codec.lean ====
section
/-!
SUPPORT. The codec: what getting and putting a field does, the fields in bits of the bytes, and each extractor
after each encoder (40_codec R103 to R112).
-/

namespace Sys2Proof.Codec

/-- The bits of a byte put together from two nibbles. -/
theorem getLsbD_nibbles (a b : Nibble) (k : Nat) :
    (a ++ b : Byte).getLsbD k = if k < 4 then b.getLsbD k else a.getLsbD (k - 4) := BitVec.getLsbD_append

/-- The bits of a word put together from two bytes. -/
theorem getLsbD_bytes (a b : Byte) (k : Nat) :
    (a ++ b : Word).getLsbD k = if k < 8 then b.getLsbD k else a.getLsbD (k - 8) := BitVec.getLsbD_append

/-- The bits of an address put together from a nibble and a byte. -/
theorem getLsbD_nibble_byte (a : Nibble) (b : Byte) (k : Nat) :
    (a ++ b : Addr).getLsbD k = if k < 8 then b.getLsbD k else a.getLsbD (k - 8) := BitVec.getLsbD_append

/-! ### Fields: what `get` and `put` do, once -/

/-- A bit of a field's value. -/
theorem Field.getLsbD_get {k : Nat} (f : Field k) (w : Word) (i : Nat) :
    (f.get w).getLsbD i = (decide (i < k) && w.getLsbD (f.lo + i)) := BitVec.getLsbD_extractLsb' ..

/-- A bit of a word that holds a field. -/
theorem Field.getLsbD_put {k : Nat} (f : Field k) (v : BitVec k) (i : Nat) :
    (f.put v).getLsbD i = (decide (i < 16) && !decide (i < f.lo) && v.getLsbD (i - f.lo)) := by
  rw [Field.put, BitVec.getLsbD_shiftLeft, BitVec.getLsbD_setWidth]
  by_cases h : i < 16
  · simp [h, show i - f.lo < 16 by omega]
  · simp [h]

/-- What is put in a field is got from it. -/
theorem Field.get_put {k : Nat} {f : Field k} (h : f.lo + k ≤ 16) (v : BitVec k) : f.get (f.put v) = v := by
  ext i hi
  rw [← BitVec.getLsbD_eq_getElem, ← BitVec.getLsbD_eq_getElem, Field.getLsbD_get, Field.getLsbD_put,
    Nat.add_sub_cancel_left]
  simp [hi, show f.lo + i < 16 by omega]

/-- A field apart from another does not see what is put there. -/
theorem Field.get_put_apart {k m : Nat} {f : Field k} {g : Field m} (h : f.lo + k ≤ g.lo ∨ g.lo + m ≤ f.lo)
    (v : BitVec m) : f.get (g.put v) = 0#k := by
  ext i hi
  rw [← BitVec.getLsbD_eq_getElem, Field.getLsbD_get, Field.getLsbD_put, BitVec.getElem_zero]
  rcases h with h | h
  · simp [show f.lo + i < g.lo by omega]
  · rw [BitVec.getLsbD_of_ge v _ (by omega), Bool.and_false, Bool.and_false]

/-- A field of a word put together is put together. -/
theorem Field.get_or {k : Nat} (f : Field k) (a b : Word) : f.get (a ||| b) = f.get a ||| f.get b := by
  ext i hi
  rw [← BitVec.getLsbD_eq_getElem, ← BitVec.getLsbD_eq_getElem, BitVec.getLsbD_or]
  simp only [Field.getLsbD_get, BitVec.getLsbD_or, hi, decide_true, Bool.true_and]

/-! ### Words and byte pairs -/

/-- A word is its two bytes, the high one first. -/
theorem wordOf_eq (p : Byte × Byte) : wordOf p = p.1 ++ p.2 := by
  ext i hi
  rw [← BitVec.getLsbD_eq_getElem, ← BitVec.getLsbD_eq_getElem, getLsbD_bytes, wordOf, BitVec.getLsbD_or,
    Field.getLsbD_put, Field.getLsbD_put]
  show (decide (i < 16) && !decide (i < 8) && p.1.getLsbD (i - 8) ||
    decide (i < 16) && !decide (i < 0) && p.2.getLsbD (i - 0)) = _
  by_cases h : i < 8
  · simp [h, hi]
  · simp [h, hi, BitVec.getLsbD_of_ge p.2 i (by omega)]

@[simp] theorem pairOf_wordOf (p : Byte × Byte) : pairOf (wordOf p) = p := by
  refine Prod.ext ?_ ?_
  · show byte0Field.get (byte0Field.put p.1 ||| byte1Field.put p.2) = p.1
    rw [Field.get_or, Field.get_put (by decide), Field.get_put_apart (by decide)]
    exact BitVec.or_zero
  · show byte1Field.get (byte0Field.put p.1 ||| byte1Field.put p.2) = p.2
    rw [Field.get_or, Field.get_put (by decide), Field.get_put_apart (by decide)]
    exact BitVec.zero_or

@[simp] theorem wordOf_pairOf (w : Word) : wordOf (pairOf w) = w := by
  ext i hi
  rw [← BitVec.getLsbD_eq_getElem, wordOf_eq, getLsbD_bytes, ← BitVec.getLsbD_eq_getElem]
  show (if i < 8 then (byte1Field.get w).getLsbD i else (byte0Field.get w).getLsbD (i - 8)) = _
  rw [Field.getLsbD_get, Field.getLsbD_get]
  split
  · next h => simp [h, byte1Field]
  · next h =>
    show (decide (i - 8 < 8) && w.getLsbD (8 + (i - 8))) = _
    rw [show 8 + (i - 8) = i by omega]
    simp [show i - 8 < 8 by omega]

/-! ### The fields of a byte pair, in bits of its bytes -/

/-- A field inside byte0 does not see byte1. -/
theorem Field.get_wordOf_high {k : Nat} {f : Field k} (h : 8 ≤ f.lo) (b0 b1 : Byte) :
    f.get (wordOf (b0, b1)) = b0.extractLsb' (f.lo - 8) k := by
  ext i hi
  rw [← BitVec.getLsbD_eq_getElem, Field.getLsbD_get, wordOf_eq, getLsbD_bytes, if_neg (by omega),
    BitVec.getElem_extractLsb', show f.lo + i - 8 = f.lo - 8 + i by omega]
  simp [hi]

/-- A field inside byte1 does not see byte0. -/
theorem Field.get_wordOf_low {k : Nat} {f : Field k} (h : f.lo + k ≤ 8) (b0 b1 : Byte) :
    f.get (wordOf (b0, b1)) = b1.extractLsb' f.lo k := by
  ext i hi
  rw [← BitVec.getLsbD_eq_getElem, Field.getLsbD_get, wordOf_eq, getLsbD_bytes, if_pos (by omega),
    BitVec.getElem_extractLsb']
  simp [hi]

theorem opOf_eq (b0 : Byte) : opOf b0 = b0.extractLsb' 4 4 := Field.get_wordOf_high (by decide) b0 0
theorem xOf_eq (b0 : Byte) : xOf b0 = b0.extractLsb' 0 4 := Field.get_wordOf_high (by decide) b0 0
theorem yOf_eq (b1 : Byte) : yOf b1 = b1.extractLsb' 4 4 := Field.get_wordOf_low (by decide) 0 b1
theorem nOf_eq (b1 : Byte) : nOf b1 = b1.extractLsb' 0 4 := Field.get_wordOf_low (by decide) 0 b1
@[simp] theorem nnOf_eq (b1 : Byte) : nnOf b1 = b1 :=
  (Field.get_wordOf_low (by decide) 0 b1).trans BitVec.extractLsb'_eq_self

theorem nnnOf_eq (b0 b1 : Byte) : nnnOf b0 b1 = xOf b0 ++ b1 := by
  ext i hi
  rw [← BitVec.getLsbD_eq_getElem, ← BitVec.getLsbD_eq_getElem, nnnOf, Field.getLsbD_get, wordOf_eq, getLsbD_bytes,
    getLsbD_nibble_byte, xOf_eq, BitVec.getLsbD_extractLsb']
  show (decide (i < 12) && if 0 + i < 8 then b1.getLsbD (0 + i) else b0.getLsbD (0 + i - 8)) = _
  rw [Nat.zero_add, Nat.zero_add]
  split
  · simp [hi]
  · simp [hi, show i - 8 < 4 by omega]

/-- A field inside byte0, of a word's byte0 alone. -/
theorem Field.get_high_pairOf {k : Nat} {f : Field k} (h : 8 ≤ f.lo) (w : Word) :
    f.get (wordOf ((pairOf w).1, 0)) = f.get w := by
  rw [Field.get_wordOf_high h, ← Field.get_wordOf_high h _ (pairOf w).2, Prod.eta, wordOf_pairOf]

/-- A field inside byte1, of a word's byte1 alone. -/
theorem Field.get_low_pairOf {k : Nat} {f : Field k} (h : f.lo + k ≤ 8) (w : Word) :
    f.get (wordOf (0, (pairOf w).2)) = f.get w := by
  rw [Field.get_wordOf_low h, ← Field.get_wordOf_low h (pairOf w).1, Prod.eta, wordOf_pairOf]

@[simp] theorem opOf_pairOf (w : Word) : opOf (pairOf w).1 = opField.get w := Field.get_high_pairOf (by decide) w
@[simp] theorem xOf_pairOf (w : Word) : xOf (pairOf w).1 = xField.get w := Field.get_high_pairOf (by decide) w
@[simp] theorem yOf_pairOf (w : Word) : yOf (pairOf w).2 = yField.get w := Field.get_low_pairOf (by decide) w
@[simp] theorem nOf_pairOf (w : Word) : nOf (pairOf w).2 = nField.get w := Field.get_low_pairOf (by decide) w
@[simp] theorem nnnOf_pairOf (w : Word) : nnnOf (pairOf w).1 (pairOf w).2 = nnnField.get w := by
  rw [nnnOf, Prod.eta, wordOf_pairOf]

/-- byte1 of a word is its `nn`. -/
theorem pairOf_snd (w : Word) : (pairOf w).2 = nnField.get w := rfl

/-- A byte is its two nibbles. -/
theorem byte_join (b : Byte) : (b.extractLsb' 4 4 ++ b.extractLsb' 0 4 : Byte) = b := by
  ext i hi
  rw [← BitVec.getLsbD_eq_getElem, getLsbD_nibbles]
  split
  · next h => simp [h, BitVec.getLsbD_eq_getElem hi]
  · next h =>
    rw [BitVec.getLsbD_extractLsb', show 4 + (i - 4) = i by omega, BitVec.getLsbD_eq_getElem hi]
    simp [show i - 4 < 4 by omega]

/-- byte0 is its two fields. -/
theorem opOf_append_xOf (b0 : Byte) : opOf b0 ++ xOf b0 = b0 := by
  rw [opOf_eq, xOf_eq]
  exact byte_join b0

/-- byte1 is its two nibble fields. -/
theorem yOf_append_nOf (b1 : Byte) : yOf b1 ++ nOf b1 = b1 := by
  rw [yOf_eq, nOf_eq]
  exact byte_join b1

/-! ### Extractors after encoders (R112) -/

@[simp] theorem opOf_encodeNnn (op : Nibble) (nnn : Addr) : opOf (encodeNnn op nnn).1 = op := by
  rw [encodeNnn, opOf_pairOf, Field.get_or, Field.get_put (by decide), Field.get_put_apart (by decide)]
  exact BitVec.or_zero
@[simp] theorem nnnOf_encodeNnn (op : Nibble) (nnn : Addr) :
    nnnOf (encodeNnn op nnn).1 (encodeNnn op nnn).2 = nnn := by
  rw [encodeNnn, nnnOf_pairOf, Field.get_or, Field.get_put (by decide), Field.get_put_apart (by decide)]
  exact BitVec.zero_or
@[simp] theorem opOf_encodeXnn (op x : Nibble) (nn : Byte) : opOf (encodeXnn op x nn).1 = op := by
  rw [encodeXnn, opOf_pairOf, Field.get_or, Field.get_or, Field.get_put (by decide), Field.get_put_apart (by decide),
    Field.get_put_apart (by decide)]
  simp
@[simp] theorem xOf_encodeXnn (op x : Nibble) (nn : Byte) : xOf (encodeXnn op x nn).1 = x := by
  rw [encodeXnn, xOf_pairOf, Field.get_or, Field.get_or, Field.get_put (by decide), Field.get_put_apart (by decide),
    Field.get_put_apart (by decide)]
  simp
@[simp] theorem encodeXnn_snd (op x : Nibble) (nn : Byte) : (encodeXnn op x nn).2 = nn := by
  rw [encodeXnn, pairOf_snd, Field.get_or, Field.get_or, Field.get_put (by decide), Field.get_put_apart (by decide),
    Field.get_put_apart (by decide)]
  simp
theorem nnOf_encodeXnn (op x : Nibble) (nn : Byte) : nnOf (encodeXnn op x nn).2 = nn := by simp
@[simp] theorem opOf_encodeXyn (op x y n : Nibble) : opOf (encodeXyn op x y n).1 = op := by
  rw [encodeXyn, opOf_pairOf, Field.get_or, Field.get_or, Field.get_or, Field.get_put (by decide),
    Field.get_put_apart (by decide), Field.get_put_apart (by decide), Field.get_put_apart (by decide)]
  simp
@[simp] theorem xOf_encodeXyn (op x y n : Nibble) : xOf (encodeXyn op x y n).1 = x := by
  rw [encodeXyn, xOf_pairOf, Field.get_or, Field.get_or, Field.get_or, Field.get_put (by decide),
    Field.get_put_apart (by decide), Field.get_put_apart (by decide), Field.get_put_apart (by decide)]
  simp
@[simp] theorem yOf_encodeXyn (op x y n : Nibble) : yOf (encodeXyn op x y n).2 = y := by
  rw [encodeXyn, yOf_pairOf, Field.get_or, Field.get_or, Field.get_or, Field.get_put (by decide),
    Field.get_put_apart (by decide), Field.get_put_apart (by decide), Field.get_put_apart (by decide)]
  simp
@[simp] theorem nOf_encodeXyn (op x y n : Nibble) : nOf (encodeXyn op x y n).2 = n := by
  rw [encodeXyn, nOf_pairOf, Field.get_or, Field.get_or, Field.get_or, Field.get_put (by decide),
    Field.get_put_apart (by decide), Field.get_put_apart (by decide), Field.get_put_apart (by decide)]
  simp

/-! ### The encoders in bits of the bytes -/

theorem encodeXnn_eq (op x : Nibble) (nn : Byte) : encodeXnn op x nn = (op ++ x, nn) :=
  Prod.ext (by rw [← opOf_append_xOf (encodeXnn op x nn).1, opOf_encodeXnn, xOf_encodeXnn]) (encodeXnn_snd ..)

theorem encodeXyn_eq (op x y n : Nibble) : encodeXyn op x y n = (op ++ x, y ++ n) :=
  Prod.ext (by rw [← opOf_append_xOf (encodeXyn op x y n).1, opOf_encodeXyn, xOf_encodeXyn])
    (by rw [← yOf_append_nOf (encodeXyn op x y n).2, yOf_encodeXyn, nOf_encodeXyn])

@[simp] theorem regOf_fieldOf (r : Reg) : regOf (fieldOf r) = r := rfl
@[simp] theorem fieldOf_regOf (f : Nibble) : fieldOf (regOf f) = f := rfl

/-! ### Masks of the opcode map (R76) -/

/-- Mask 0xF000 keeps the opcode nibble. -/
theorem and_F000 (p : Byte × Byte) : wordOf p &&& 0xF000 = wordOf (opOf p.1 ++ (0 : Nibble), 0) := by
  ext i hi
  rw [← BitVec.getLsbD_eq_getElem, ← BitVec.getLsbD_eq_getElem, BitVec.getLsbD_and, wordOf_eq, wordOf_eq, getLsbD_bytes,
    getLsbD_bytes, getLsbD_nibbles, opOf_eq, BitVec.getLsbD_extractLsb']
  interval_cases i <;> simp

/-- Mask 0xF00F keeps the opcode nibble and the low nibble. -/
theorem and_F00F (p : Byte × Byte) :
    wordOf p &&& 0xF00F = wordOf (opOf p.1 ++ (0 : Nibble), (0 : Nibble) ++ nOf p.2) := by
  ext i hi
  rw [← BitVec.getLsbD_eq_getElem, ← BitVec.getLsbD_eq_getElem, BitVec.getLsbD_and, wordOf_eq, wordOf_eq, getLsbD_bytes,
    getLsbD_bytes, getLsbD_nibbles, getLsbD_nibbles, opOf_eq, nOf_eq, BitVec.getLsbD_extractLsb', BitVec.getLsbD_extractLsb']
  interval_cases i <;> simp

/-- Mask 0xF0FF keeps the opcode nibble and the low byte. -/
theorem and_F0FF (p : Byte × Byte) : wordOf p &&& 0xF0FF = wordOf (opOf p.1 ++ (0 : Nibble), p.2) := by
  ext i hi
  rw [← BitVec.getLsbD_eq_getElem, ← BitVec.getLsbD_eq_getElem, BitVec.getLsbD_and, wordOf_eq, wordOf_eq, getLsbD_bytes,
    getLsbD_bytes, getLsbD_nibbles, opOf_eq, BitVec.getLsbD_extractLsb']
  interval_cases i <;> simp

end Sys2Proof.Codec
end

