-- ==== Sys2Proof/Laws/Memory.lean ====
section
/-!
SUPPORT. RAM: a read after a write, the canonical form kept by every memory operation, and equality of
canonical memories from equality of their bytes.
-/

namespace Sys2Proof.Machine

@[simp] theorem Memory.get_nil (a : Nat) : Memory.get [] a = Memory.unlisted := rfl

theorem Memory.get_cons (k : Nat) (b : Byte) (m : Memory) (a : Nat) :
    Memory.get ((k, b) :: m) a = if k = a then b else Memory.get m a := rfl

/-- Below every listed address a byte is unlisted. -/
theorem Memory.get_below {m : Memory} {lo a : Nat} (h : Memory.wfFrom lo m = true) (ha : a < lo) :
    m.get a = Memory.unlisted := by
  induction m generalizing lo with
  | nil => rfl
  | cons c m ih =>
    obtain ⟨k, b⟩ := c
    simp only [Memory.wfFrom, Bool.and_eq_true, decide_eq_true_eq] at h
    rw [Memory.get_cons, if_neg (by omega), ih h.2 (by omega)]

theorem Memory.get_consCell (k : Nat) (b : Byte) (m : Memory) (a : Nat)
    (h : m.get k = Memory.unlisted) :
    Memory.get (Memory.consCell k b m) a = if k = a then b else m.get a := by
  unfold Memory.consCell
  split
  · next hb => split <;> simp_all
  · rfl

/-- A read after a write, on a canonical memory. -/
theorem Memory.get_set {m : Memory} {lo : Nat} (h : Memory.wfFrom lo m = true) (a : Nat) (b : Byte) (a' : Nat) :
    (m.set a b).get a' = if a = a' then b else m.get a' := by
  induction m generalizing lo with
  | nil => exact Memory.get_consCell a b [] a' rfl
  | cons c m ih =>
    obtain ⟨k, x⟩ := c
    have h' := h
    simp only [Memory.wfFrom, Bool.and_eq_true, decide_eq_true_eq] at h'
    unfold Memory.set
    split
    · next hlt =>
      refine Memory.get_consCell a b _ a' ?_
      rw [Memory.get_cons, if_neg (by omega), Memory.get_below h'.2 (by omega)]
    · split
      · next _ heq =>
        subst heq
        rw [Memory.get_consCell _ _ _ _ (Memory.get_below h'.2 (by omega)), Memory.get_cons]
        split <;> rfl
      · next h1 h2 =>
        rw [Memory.get_cons, Memory.get_cons, ih h'.2]
        split
        · rw [if_neg (by omega)]
        · rfl

theorem Memory.wfFrom_mono {m : Memory} {lo lo' : Nat} (h : Memory.wfFrom lo m = true) (hl : lo' ≤ lo) :
    Memory.wfFrom lo' m = true := by
  cases m with
  | nil => rfl
  | cons c m =>
    simp only [Memory.wfFrom, Bool.and_eq_true, decide_eq_true_eq] at h ⊢
    exact ⟨⟨⟨by omega, h.1.1.2⟩, h.1.2⟩, h.2⟩

theorem Memory.wfFrom_consCell {m : Memory} {lo a : Nat} {b : Byte} (h : Memory.wfFrom (a + 1) m = true)
    (hl : lo ≤ a) (ha : a < Config.ramSize) : Memory.wfFrom lo (Memory.consCell a b m) = true := by
  unfold Memory.consCell
  split
  · exact Memory.wfFrom_mono h (by omega)
  · next hb => simp [Memory.wfFrom, h, hl, ha, hb]

/-- A write below 4096 keeps the canonical form. -/
theorem Memory.wfFrom_set {m : Memory} {lo a : Nat} {b : Byte} (h : Memory.wfFrom lo m = true) (hl : lo ≤ a)
    (ha : a < Config.ramSize) : Memory.wfFrom lo (m.set a b) = true := by
  induction m generalizing lo with
  | nil => exact Memory.wfFrom_consCell rfl hl ha
  | cons c m ih =>
    obtain ⟨k, x⟩ := c
    have h' := h
    simp only [Memory.wfFrom, Bool.and_eq_true, decide_eq_true_eq] at h'
    unfold Memory.set
    split
    · next hlt =>
      refine Memory.wfFrom_consCell ?_ hl ha
      simp only [Memory.wfFrom, Bool.and_eq_true, decide_eq_true_eq]
      exact ⟨⟨⟨by omega, h'.1.1.2⟩, h'.1.2⟩, h'.2⟩
    · split
      · next _ heq => subst heq; exact Memory.wfFrom_consCell h'.2 hl ha
      · simp only [Memory.wfFrom, Bool.and_eq_true, decide_eq_true_eq]
        exact ⟨⟨⟨h'.1.1.1, h'.1.1.2⟩, h'.1.2⟩, ih h'.2 (by omega)⟩

theorem Memory.wf_set {m : Memory} (h : m.wf = true) {a : Nat} (ha : a < Config.ramSize) (b : Byte) :
    (m.set a b).wf = true := Memory.wfFrom_set h (Nat.zero_le a) ha

/-- Writing a run of bytes below 4096 keeps the canonical form. -/
theorem Memory.wf_setBytes {m : Memory} (h : m.wf = true) {a : Nat} {bs : List Byte}
    (ha : a + bs.length ≤ Config.ramSize) : (m.setBytes a bs).wf = true := by
  induction bs generalizing m a with
  | nil => exact h
  | cons b bs ih =>
    simp only [List.length_cons] at ha
    exact ih (Memory.wf_set h (by omega) b) (by omega)

/-- A read after a run of bytes is written: inside the run its byte, outside as before. -/
theorem Memory.get_setBytes {m : Memory} (h : m.wf = true) {a : Nat} {bs : List Byte}
    (ha : a + bs.length ≤ Config.ramSize) (a' : Nat) :
    (m.setBytes a bs).get a' =
      if a ≤ a' ∧ a' < a + bs.length then bs.getD (a' - a) 0 else m.get a' := by
  induction bs generalizing m a with
  | nil => rw [if_neg (by simp)]; rfl
  | cons b bs ih =>
    simp only [List.length_cons] at ha ⊢
    rw [Memory.setBytes, ih (Memory.wf_set h (by omega) b) (by omega), Memory.get_set h]
    by_cases h1 : a = a'
    · subst h1
      rw [if_neg (by omega), if_pos rfl, if_pos (by omega), Nat.sub_self]
      rfl
    · rw [if_neg h1]
      by_cases h2 : a + 1 ≤ a' ∧ a' < a + 1 + bs.length
      · rw [if_pos h2, if_pos (by omega), show a' - a = (a' - (a + 1)) + 1 by omega]
        rfl
      · rw [if_neg h2, if_neg (by omega)]

/-- Equal bytes are equal data: two canonical memories that read alike are the same list. -/
theorem Memory.ext_get {m m' : Memory} {lo : Nat} (h : Memory.wfFrom lo m = true) (h' : Memory.wfFrom lo m' = true)
    (heq : ∀ a, m.get a = m'.get a) : m = m' := by
  induction m generalizing m' lo with
  | nil =>
    cases m' with
    | nil => rfl
    | cons c m' =>
      obtain ⟨k, b⟩ := c
      simp only [Memory.wfFrom, Bool.and_eq_true, decide_eq_true_eq] at h'
      have := heq k
      rw [Memory.get_nil, Memory.get_cons, if_pos rfl] at this
      exact absurd this.symm h'.1.2
  | cons c m ih =>
    obtain ⟨k, b⟩ := c
    have hc := h
    simp only [Memory.wfFrom, Bool.and_eq_true, decide_eq_true_eq] at hc
    cases m' with
    | nil =>
      have := heq k
      rw [Memory.get_nil, Memory.get_cons, if_pos rfl] at this
      exact absurd this hc.1.2
    | cons c' m' =>
      obtain ⟨k', b'⟩ := c'
      have hc' := h'
      simp only [Memory.wfFrom, Bool.and_eq_true, decide_eq_true_eq] at hc'
      have hk : k = k' := by
        rcases Nat.lt_trichotomy k k' with hlt | heq' | hgt
        · have := heq k
          rw [Memory.get_cons, if_pos rfl, Memory.get_cons, if_neg (by omega),
            Memory.get_below hc'.2 (by omega)] at this
          exact absurd this hc.1.2
        · exact heq'
        · have := heq k'
          rw [Memory.get_cons, if_neg (by omega), Memory.get_below hc.2 (by omega), Memory.get_cons,
            if_pos rfl] at this
          exact absurd this.symm hc'.1.2
      subst hk
      have hb : b = b' := by
        have := heq k
        rwa [Memory.get_cons, if_pos rfl, Memory.get_cons, if_pos rfl] at this
      subst hb
      have hm : m = m' := by
        refine ih hc.2 hc'.2 fun a => ?_
        have := heq a
        rw [Memory.get_cons, Memory.get_cons] at this
        by_cases ha : k = a
        · subst ha
          rw [Memory.get_below hc.2 (by omega), Memory.get_below hc'.2 (by omega)]
        · rwa [if_neg ha, if_neg ha] at this
      rw [hm]

@[simp] theorem State.reset_mem_wf : State.reset.mem.wf = true := rfl

end Sys2Proof.Machine
end

