-- ==== Sys2Proof/Laws/State.lean ====
section
/-!
SUPPORT. What each named update does to each field of the state, so that no proof unfolds an update.
-/

namespace Sys2Proof.Machine

variable (s : State)


/-! ### `setV` -/

@[simp] theorem State.setV_v (r : Reg) (b : Byte) : (s.setV r b).v = s.v.set r.val b r.isLt := rfl
@[simp] theorem State.setV_i (r : Reg) (b : Byte) : (s.setV r b).i = s.i := rfl
@[simp] theorem State.setV_pc (r : Reg) (b : Byte) : (s.setV r b).pc = s.pc := rfl
@[simp] theorem State.setV_sp (r : Reg) (b : Byte) : (s.setV r b).sp = s.sp := rfl
@[simp] theorem State.setV_stack (r : Reg) (b : Byte) : (s.setV r b).stack = s.stack := rfl
@[simp] theorem State.setV_mem (r : Reg) (b : Byte) : (s.setV r b).mem = s.mem := rfl
@[simp] theorem State.setV_disp (r : Reg) (b : Byte) : (s.setV r b).disp = s.disp := rfl
@[simp] theorem State.setV_dt (r : Reg) (b : Byte) : (s.setV r b).dt = s.dt := rfl
@[simp] theorem State.setV_st (r : Reg) (b : Byte) : (s.setV r b).st = s.st := rfl
@[simp] theorem State.setV_buzzer (r : Reg) (b : Byte) : (s.setV r b).buzzer = s.buzzer := rfl
@[simp] theorem State.setV_trap (r : Reg) (b : Byte) : (s.setV r b).trap = s.trap := rfl
@[simp] theorem State.setV_error (r : Reg) (b : Byte) : (s.setV r b).error = s.error := rfl
@[simp] theorem State.setV_keys (r : Reg) (b : Byte) : (s.setV r b).keys = s.keys := rfl
@[simp] theorem State.setV_jumpCount (r : Reg) (b : Byte) : (s.setV r b).jumpCount = s.jumpCount := rfl
@[simp] theorem State.setV_flow (r : Reg) (b : Byte) : (s.setV r b).flow = s.flow := rfl
@[simp] theorem State.setV_ticksTaken (r : Reg) (b : Byte) : (s.setV r b).ticksTaken = s.ticksTaken := rfl
@[simp] theorem State.setV_bytesDrawn (r : Reg) (b : Byte) : (s.setV r b).bytesDrawn = s.bytesDrawn := rfl

/-! ### `setVF` -/

@[simp] theorem State.setVF_v (b : Byte) : (s.setVF b).v = s.v.set regVF.val b regVF.isLt := rfl
@[simp] theorem State.setVF_i (b : Byte) : (s.setVF b).i = s.i := rfl
@[simp] theorem State.setVF_pc (b : Byte) : (s.setVF b).pc = s.pc := rfl
@[simp] theorem State.setVF_sp (b : Byte) : (s.setVF b).sp = s.sp := rfl
@[simp] theorem State.setVF_stack (b : Byte) : (s.setVF b).stack = s.stack := rfl
@[simp] theorem State.setVF_mem (b : Byte) : (s.setVF b).mem = s.mem := rfl
@[simp] theorem State.setVF_disp (b : Byte) : (s.setVF b).disp = s.disp := rfl
@[simp] theorem State.setVF_dt (b : Byte) : (s.setVF b).dt = s.dt := rfl
@[simp] theorem State.setVF_st (b : Byte) : (s.setVF b).st = s.st := rfl
@[simp] theorem State.setVF_buzzer (b : Byte) : (s.setVF b).buzzer = s.buzzer := rfl
@[simp] theorem State.setVF_trap (b : Byte) : (s.setVF b).trap = s.trap := rfl
@[simp] theorem State.setVF_error (b : Byte) : (s.setVF b).error = s.error := rfl
@[simp] theorem State.setVF_keys (b : Byte) : (s.setVF b).keys = s.keys := rfl
@[simp] theorem State.setVF_jumpCount (b : Byte) : (s.setVF b).jumpCount = s.jumpCount := rfl
@[simp] theorem State.setVF_flow (b : Byte) : (s.setVF b).flow = s.flow := rfl
@[simp] theorem State.setVF_ticksTaken (b : Byte) : (s.setVF b).ticksTaken = s.ticksTaken := rfl
@[simp] theorem State.setVF_bytesDrawn (b : Byte) : (s.setVF b).bytesDrawn = s.bytesDrawn := rfl

/-! ### `advance` -/

@[simp] theorem State.advance_v : (s.advance).v = s.v := rfl
@[simp] theorem State.advance_i : (s.advance).i = s.i := rfl
@[simp] theorem State.advance_pc : (s.advance).pc = s.pc + 2 := rfl
@[simp] theorem State.advance_sp : (s.advance).sp = s.sp := rfl
@[simp] theorem State.advance_stack : (s.advance).stack = s.stack := rfl
@[simp] theorem State.advance_mem : (s.advance).mem = s.mem := rfl
@[simp] theorem State.advance_disp : (s.advance).disp = s.disp := rfl
@[simp] theorem State.advance_dt : (s.advance).dt = s.dt := rfl
@[simp] theorem State.advance_st : (s.advance).st = s.st := rfl
@[simp] theorem State.advance_buzzer : (s.advance).buzzer = s.buzzer := rfl
@[simp] theorem State.advance_trap : (s.advance).trap = s.trap := rfl
@[simp] theorem State.advance_error : (s.advance).error = s.error := rfl
@[simp] theorem State.advance_keys : (s.advance).keys = s.keys := rfl
@[simp] theorem State.advance_jumpCount : (s.advance).jumpCount = 0 := rfl
@[simp] theorem State.advance_flow : (s.advance).flow = s.flow := rfl
@[simp] theorem State.advance_ticksTaken : (s.advance).ticksTaken = s.ticksTaken := rfl
@[simp] theorem State.advance_bytesDrawn : (s.advance).bytesDrawn = s.bytesDrawn := rfl

/-! ### `skipIf` -/

@[simp] theorem State.skipIf_v (c : Bool) : (s.skipIf c).v = s.v := rfl
@[simp] theorem State.skipIf_i (c : Bool) : (s.skipIf c).i = s.i := rfl
@[simp] theorem State.skipIf_pc (c : Bool) : (s.skipIf c).pc = s.pc + (if c then 4 else 2) := rfl
@[simp] theorem State.skipIf_sp (c : Bool) : (s.skipIf c).sp = s.sp := rfl
@[simp] theorem State.skipIf_stack (c : Bool) : (s.skipIf c).stack = s.stack := rfl
@[simp] theorem State.skipIf_mem (c : Bool) : (s.skipIf c).mem = s.mem := rfl
@[simp] theorem State.skipIf_disp (c : Bool) : (s.skipIf c).disp = s.disp := rfl
@[simp] theorem State.skipIf_dt (c : Bool) : (s.skipIf c).dt = s.dt := rfl
@[simp] theorem State.skipIf_st (c : Bool) : (s.skipIf c).st = s.st := rfl
@[simp] theorem State.skipIf_buzzer (c : Bool) : (s.skipIf c).buzzer = s.buzzer := rfl
@[simp] theorem State.skipIf_trap (c : Bool) : (s.skipIf c).trap = s.trap := rfl
@[simp] theorem State.skipIf_error (c : Bool) : (s.skipIf c).error = s.error := rfl
@[simp] theorem State.skipIf_keys (c : Bool) : (s.skipIf c).keys = s.keys := rfl
@[simp] theorem State.skipIf_jumpCount (c : Bool) : (s.skipIf c).jumpCount = 0 := rfl
@[simp] theorem State.skipIf_flow (c : Bool) : (s.skipIf c).flow = s.flow := rfl
@[simp] theorem State.skipIf_ticksTaken (c : Bool) : (s.skipIf c).ticksTaken = s.ticksTaken := rfl
@[simp] theorem State.skipIf_bytesDrawn (c : Bool) : (s.skipIf c).bytesDrawn = s.bytesDrawn := rfl

/-! ### `goTo` -/

@[simp] theorem State.goTo_v (a : Word) : (s.goTo a).v = s.v := rfl
@[simp] theorem State.goTo_i (a : Word) : (s.goTo a).i = s.i := rfl
@[simp] theorem State.goTo_pc (a : Word) : (s.goTo a).pc = a := rfl
@[simp] theorem State.goTo_sp (a : Word) : (s.goTo a).sp = s.sp := rfl
@[simp] theorem State.goTo_stack (a : Word) : (s.goTo a).stack = s.stack := rfl
@[simp] theorem State.goTo_mem (a : Word) : (s.goTo a).mem = s.mem := rfl
@[simp] theorem State.goTo_disp (a : Word) : (s.goTo a).disp = s.disp := rfl
@[simp] theorem State.goTo_dt (a : Word) : (s.goTo a).dt = s.dt := rfl
@[simp] theorem State.goTo_st (a : Word) : (s.goTo a).st = s.st := rfl
@[simp] theorem State.goTo_buzzer (a : Word) : (s.goTo a).buzzer = s.buzzer := rfl
@[simp] theorem State.goTo_trap (a : Word) : (s.goTo a).trap = s.trap := rfl
@[simp] theorem State.goTo_error (a : Word) : (s.goTo a).error = s.error := rfl
@[simp] theorem State.goTo_keys (a : Word) : (s.goTo a).keys = s.keys := rfl
@[simp] theorem State.goTo_jumpCount (a : Word) : (s.goTo a).jumpCount = 0 := rfl
@[simp] theorem State.goTo_flow (a : Word) : (s.goTo a).flow = s.flow := rfl
@[simp] theorem State.goTo_ticksTaken (a : Word) : (s.goTo a).ticksTaken = s.ticksTaken := rfl
@[simp] theorem State.goTo_bytesDrawn (a : Word) : (s.goTo a).bytesDrawn = s.bytesDrawn := rfl

/-! ### `yield` -/

@[simp] theorem State.yield_v (f : Flow) : (s.yield f).v = s.v := rfl
@[simp] theorem State.yield_i (f : Flow) : (s.yield f).i = s.i := rfl
@[simp] theorem State.yield_pc (f : Flow) : (s.yield f).pc = s.pc := rfl
@[simp] theorem State.yield_sp (f : Flow) : (s.yield f).sp = s.sp := rfl
@[simp] theorem State.yield_stack (f : Flow) : (s.yield f).stack = s.stack := rfl
@[simp] theorem State.yield_mem (f : Flow) : (s.yield f).mem = s.mem := rfl
@[simp] theorem State.yield_disp (f : Flow) : (s.yield f).disp = s.disp := rfl
@[simp] theorem State.yield_dt (f : Flow) : (s.yield f).dt = s.dt := rfl
@[simp] theorem State.yield_st (f : Flow) : (s.yield f).st = s.st := rfl
@[simp] theorem State.yield_buzzer (f : Flow) : (s.yield f).buzzer = s.buzzer := rfl
@[simp] theorem State.yield_trap (f : Flow) : (s.yield f).trap = s.trap := rfl
@[simp] theorem State.yield_error (f : Flow) : (s.yield f).error = s.error := rfl
@[simp] theorem State.yield_keys (f : Flow) : (s.yield f).keys = s.keys := rfl
@[simp] theorem State.yield_jumpCount (f : Flow) : (s.yield f).jumpCount = s.jumpCount := rfl
@[simp] theorem State.yield_flow (f : Flow) : (s.yield f).flow = some f := rfl
@[simp] theorem State.yield_ticksTaken (f : Flow) : (s.yield f).ticksTaken = s.ticksTaken := rfl
@[simp] theorem State.yield_bytesDrawn (f : Flow) : (s.yield f).bytesDrawn = s.bytesDrawn := rfl

/-! ### `setSt` -/

@[simp] theorem State.setSt_v (b : Byte) : (s.setSt b).v = s.v := rfl
@[simp] theorem State.setSt_i (b : Byte) : (s.setSt b).i = s.i := rfl
@[simp] theorem State.setSt_pc (b : Byte) : (s.setSt b).pc = s.pc := rfl
@[simp] theorem State.setSt_sp (b : Byte) : (s.setSt b).sp = s.sp := rfl
@[simp] theorem State.setSt_stack (b : Byte) : (s.setSt b).stack = s.stack := rfl
@[simp] theorem State.setSt_mem (b : Byte) : (s.setSt b).mem = s.mem := rfl
@[simp] theorem State.setSt_disp (b : Byte) : (s.setSt b).disp = s.disp := rfl
@[simp] theorem State.setSt_dt (b : Byte) : (s.setSt b).dt = s.dt := rfl
@[simp] theorem State.setSt_st (b : Byte) : (s.setSt b).st = b := rfl
@[simp] theorem State.setSt_buzzer (b : Byte) : (s.setSt b).buzzer = decide (b ≠ 0) := rfl
@[simp] theorem State.setSt_trap (b : Byte) : (s.setSt b).trap = s.trap := rfl
@[simp] theorem State.setSt_error (b : Byte) : (s.setSt b).error = s.error := rfl
@[simp] theorem State.setSt_keys (b : Byte) : (s.setSt b).keys = s.keys := rfl
@[simp] theorem State.setSt_jumpCount (b : Byte) : (s.setSt b).jumpCount = s.jumpCount := rfl
@[simp] theorem State.setSt_flow (b : Byte) : (s.setSt b).flow = s.flow := rfl
@[simp] theorem State.setSt_ticksTaken (b : Byte) : (s.setSt b).ticksTaken = s.ticksTaken := rfl
@[simp] theorem State.setSt_bytesDrawn (b : Byte) : (s.setSt b).bytesDrawn = s.bytesDrawn := rfl

/-! ### `setDt` -/

@[simp] theorem State.setDt_v (b : Byte) : (s.setDt b).v = s.v := rfl
@[simp] theorem State.setDt_i (b : Byte) : (s.setDt b).i = s.i := rfl
@[simp] theorem State.setDt_pc (b : Byte) : (s.setDt b).pc = s.pc := rfl
@[simp] theorem State.setDt_sp (b : Byte) : (s.setDt b).sp = s.sp := rfl
@[simp] theorem State.setDt_stack (b : Byte) : (s.setDt b).stack = s.stack := rfl
@[simp] theorem State.setDt_mem (b : Byte) : (s.setDt b).mem = s.mem := rfl
@[simp] theorem State.setDt_disp (b : Byte) : (s.setDt b).disp = s.disp := rfl
@[simp] theorem State.setDt_dt (b : Byte) : (s.setDt b).dt = b := rfl
@[simp] theorem State.setDt_st (b : Byte) : (s.setDt b).st = s.st := rfl
@[simp] theorem State.setDt_buzzer (b : Byte) : (s.setDt b).buzzer = s.buzzer := rfl
@[simp] theorem State.setDt_trap (b : Byte) : (s.setDt b).trap = s.trap := rfl
@[simp] theorem State.setDt_error (b : Byte) : (s.setDt b).error = s.error := rfl
@[simp] theorem State.setDt_keys (b : Byte) : (s.setDt b).keys = s.keys := rfl
@[simp] theorem State.setDt_jumpCount (b : Byte) : (s.setDt b).jumpCount = s.jumpCount := rfl
@[simp] theorem State.setDt_flow (b : Byte) : (s.setDt b).flow = s.flow := rfl
@[simp] theorem State.setDt_ticksTaken (b : Byte) : (s.setDt b).ticksTaken = s.ticksTaken := rfl
@[simp] theorem State.setDt_bytesDrawn (b : Byte) : (s.setDt b).bytesDrawn = s.bytesDrawn := rfl

/-! ### `applyTicks` -/

@[simp] theorem State.applyTicks_v (n : Nat) : (s.applyTicks n).v = s.v := rfl
@[simp] theorem State.applyTicks_i (n : Nat) : (s.applyTicks n).i = s.i := rfl
@[simp] theorem State.applyTicks_pc (n : Nat) : (s.applyTicks n).pc = s.pc := rfl
@[simp] theorem State.applyTicks_sp (n : Nat) : (s.applyTicks n).sp = s.sp := rfl
@[simp] theorem State.applyTicks_stack (n : Nat) : (s.applyTicks n).stack = s.stack := rfl
@[simp] theorem State.applyTicks_mem (n : Nat) : (s.applyTicks n).mem = s.mem := rfl
@[simp] theorem State.applyTicks_disp (n : Nat) : (s.applyTicks n).disp = s.disp := rfl
@[simp] theorem State.applyTicks_dt (n : Nat) : (s.applyTicks n).dt = countDown s.dt n := rfl
@[simp] theorem State.applyTicks_st (n : Nat) : (s.applyTicks n).st = countDown s.st n := rfl
@[simp] theorem State.applyTicks_buzzer (n : Nat) : (s.applyTicks n).buzzer = decide (countDown s.st n ≠ 0) := rfl
@[simp] theorem State.applyTicks_trap (n : Nat) : (s.applyTicks n).trap = s.trap := rfl
@[simp] theorem State.applyTicks_error (n : Nat) : (s.applyTicks n).error = s.error := rfl
@[simp] theorem State.applyTicks_keys (n : Nat) : (s.applyTicks n).keys = s.keys := rfl
@[simp] theorem State.applyTicks_jumpCount (n : Nat) : (s.applyTicks n).jumpCount = s.jumpCount := rfl
@[simp] theorem State.applyTicks_flow (n : Nat) : (s.applyTicks n).flow = s.flow := rfl
@[simp] theorem State.applyTicks_ticksTaken (n : Nat) : (s.applyTicks n).ticksTaken = s.ticksTaken := rfl
@[simp] theorem State.applyTicks_bytesDrawn (n : Nat) : (s.applyTicks n).bytesDrawn = s.bytesDrawn := rfl

/-! ### `fatal` -/

@[simp] theorem State.fatal_v (m : String) : (s.fatal m).v = s.v := rfl
@[simp] theorem State.fatal_i (m : String) : (s.fatal m).i = s.i := rfl
@[simp] theorem State.fatal_pc (m : String) : (s.fatal m).pc = s.pc := rfl
@[simp] theorem State.fatal_sp (m : String) : (s.fatal m).sp = s.sp := rfl
@[simp] theorem State.fatal_stack (m : String) : (s.fatal m).stack = s.stack := rfl
@[simp] theorem State.fatal_mem (m : String) : (s.fatal m).mem = s.mem := rfl
@[simp] theorem State.fatal_disp (m : String) : (s.fatal m).disp = s.disp := rfl
@[simp] theorem State.fatal_dt (m : String) : (s.fatal m).dt = s.dt := rfl
@[simp] theorem State.fatal_st (m : String) : (s.fatal m).st = s.st := rfl
@[simp] theorem State.fatal_buzzer (m : String) : (s.fatal m).buzzer = s.buzzer := rfl
@[simp] theorem State.fatal_trap (m : String) : (s.fatal m).trap = true := rfl
@[simp] theorem State.fatal_error (m : String) : (s.fatal m).error = some m := rfl
@[simp] theorem State.fatal_keys (m : String) : (s.fatal m).keys = s.keys := rfl
@[simp] theorem State.fatal_jumpCount (m : String) : (s.fatal m).jumpCount = s.jumpCount := rfl
@[simp] theorem State.fatal_flow (m : String) : (s.fatal m).flow = s.flow := rfl
@[simp] theorem State.fatal_ticksTaken (m : String) : (s.fatal m).ticksTaken = s.ticksTaken := rfl
@[simp] theorem State.fatal_bytesDrawn (m : String) : (s.fatal m).bytesDrawn = s.bytesDrawn := rfl

/-! ### `unsupportedOpcode` -/

@[simp] theorem State.unsupportedOpcode_v : (s.unsupportedOpcode).v = s.v := rfl
@[simp] theorem State.unsupportedOpcode_i : (s.unsupportedOpcode).i = s.i := rfl
@[simp] theorem State.unsupportedOpcode_pc : (s.unsupportedOpcode).pc = s.pc := rfl
@[simp] theorem State.unsupportedOpcode_sp : (s.unsupportedOpcode).sp = s.sp := rfl
@[simp] theorem State.unsupportedOpcode_stack : (s.unsupportedOpcode).stack = s.stack := rfl
@[simp] theorem State.unsupportedOpcode_mem : (s.unsupportedOpcode).mem = s.mem := rfl
@[simp] theorem State.unsupportedOpcode_disp : (s.unsupportedOpcode).disp = s.disp := rfl
@[simp] theorem State.unsupportedOpcode_dt : (s.unsupportedOpcode).dt = s.dt := rfl
@[simp] theorem State.unsupportedOpcode_st : (s.unsupportedOpcode).st = s.st := rfl
@[simp] theorem State.unsupportedOpcode_buzzer : (s.unsupportedOpcode).buzzer = s.buzzer := rfl
@[simp] theorem State.unsupportedOpcode_trap : (s.unsupportedOpcode).trap = true := rfl
@[simp] theorem State.unsupportedOpcode_error : (s.unsupportedOpcode).error = some Config.errorMessage := rfl
@[simp] theorem State.unsupportedOpcode_keys : (s.unsupportedOpcode).keys = s.keys := rfl
@[simp] theorem State.unsupportedOpcode_jumpCount : (s.unsupportedOpcode).jumpCount = s.jumpCount := rfl
@[simp] theorem State.unsupportedOpcode_flow : (s.unsupportedOpcode).flow = some (.error Config.errorMessage) := rfl
@[simp] theorem State.unsupportedOpcode_ticksTaken : (s.unsupportedOpcode).ticksTaken = s.ticksTaken := rfl
@[simp] theorem State.unsupportedOpcode_bytesDrawn : (s.unsupportedOpcode).bytesDrawn = s.bytesDrawn := rfl

/-! ### `drawByte` -/

@[simp] theorem State.drawByte_v : (s.drawByte.2).v = s.v := rfl
@[simp] theorem State.drawByte_i : (s.drawByte.2).i = s.i := rfl
@[simp] theorem State.drawByte_pc : (s.drawByte.2).pc = s.pc := rfl
@[simp] theorem State.drawByte_sp : (s.drawByte.2).sp = s.sp := rfl
@[simp] theorem State.drawByte_stack : (s.drawByte.2).stack = s.stack := rfl
@[simp] theorem State.drawByte_mem : (s.drawByte.2).mem = s.mem := rfl
@[simp] theorem State.drawByte_disp : (s.drawByte.2).disp = s.disp := rfl
@[simp] theorem State.drawByte_dt : (s.drawByte.2).dt = s.dt := rfl
@[simp] theorem State.drawByte_st : (s.drawByte.2).st = s.st := rfl
@[simp] theorem State.drawByte_buzzer : (s.drawByte.2).buzzer = s.buzzer := rfl
@[simp] theorem State.drawByte_trap : (s.drawByte.2).trap = s.trap := rfl
@[simp] theorem State.drawByte_error : (s.drawByte.2).error = s.error := rfl
@[simp] theorem State.drawByte_keys : (s.drawByte.2).keys = s.keys := rfl
@[simp] theorem State.drawByte_jumpCount : (s.drawByte.2).jumpCount = s.jumpCount := rfl
@[simp] theorem State.drawByte_flow : (s.drawByte.2).flow = s.flow := rfl
@[simp] theorem State.drawByte_ticksTaken : (s.drawByte.2).ticksTaken = s.ticksTaken := rfl
@[simp] theorem State.drawByte_bytesDrawn : (s.drawByte.2).bytesDrawn = s.bytesDrawn + 1 := rfl

/-! ### `beginCycle` -/

@[simp] theorem State.beginCycle_v (n : Nat) : (s.beginCycle n).v = s.v := rfl
@[simp] theorem State.beginCycle_i (n : Nat) : (s.beginCycle n).i = s.i := rfl
@[simp] theorem State.beginCycle_pc (n : Nat) : (s.beginCycle n).pc = s.pc := rfl
@[simp] theorem State.beginCycle_sp (n : Nat) : (s.beginCycle n).sp = s.sp := rfl
@[simp] theorem State.beginCycle_stack (n : Nat) : (s.beginCycle n).stack = s.stack := rfl
@[simp] theorem State.beginCycle_mem (n : Nat) : (s.beginCycle n).mem = s.mem := rfl
@[simp] theorem State.beginCycle_disp (n : Nat) : (s.beginCycle n).disp = s.disp := rfl
@[simp] theorem State.beginCycle_dt (n : Nat) : (s.beginCycle n).dt = countDown s.dt n := rfl
@[simp] theorem State.beginCycle_st (n : Nat) : (s.beginCycle n).st = countDown s.st n := rfl
@[simp] theorem State.beginCycle_buzzer (n : Nat) : (s.beginCycle n).buzzer = decide (countDown s.st n ≠ 0) := rfl
@[simp] theorem State.beginCycle_trap (n : Nat) : (s.beginCycle n).trap = s.trap := rfl
@[simp] theorem State.beginCycle_error (n : Nat) : (s.beginCycle n).error = s.error := rfl
@[simp] theorem State.beginCycle_keys (n : Nat) : (s.beginCycle n).keys = s.keys := rfl
@[simp] theorem State.beginCycle_jumpCount (n : Nat) : (s.beginCycle n).jumpCount = s.jumpCount := rfl
@[simp] theorem State.beginCycle_flow (n : Nat) : (s.beginCycle n).flow = none := rfl
@[simp] theorem State.beginCycle_ticksTaken (n : Nat) : (s.beginCycle n).ticksTaken = s.ticksTaken + 1 := rfl
@[simp] theorem State.beginCycle_bytesDrawn (n : Nat) : (s.beginCycle n).bytesDrawn = s.bytesDrawn := rfl

/-! ### `reportTrap` -/

@[simp] theorem State.reportTrap_v : (s.reportTrap).v = s.v := rfl
@[simp] theorem State.reportTrap_i : (s.reportTrap).i = s.i := rfl
@[simp] theorem State.reportTrap_pc : (s.reportTrap).pc = s.pc := rfl
@[simp] theorem State.reportTrap_sp : (s.reportTrap).sp = s.sp := rfl
@[simp] theorem State.reportTrap_stack : (s.reportTrap).stack = s.stack := rfl
@[simp] theorem State.reportTrap_mem : (s.reportTrap).mem = s.mem := rfl
@[simp] theorem State.reportTrap_disp : (s.reportTrap).disp = s.disp := rfl
@[simp] theorem State.reportTrap_dt : (s.reportTrap).dt = s.dt := rfl
@[simp] theorem State.reportTrap_st : (s.reportTrap).st = s.st := rfl
@[simp] theorem State.reportTrap_buzzer : (s.reportTrap).buzzer = s.buzzer := rfl
@[simp] theorem State.reportTrap_trap : (s.reportTrap).trap = s.trap := rfl
@[simp] theorem State.reportTrap_error : (s.reportTrap).error = s.error := rfl
@[simp] theorem State.reportTrap_keys : (s.reportTrap).keys = s.keys := rfl
@[simp] theorem State.reportTrap_jumpCount : (s.reportTrap).jumpCount = s.jumpCount := rfl
@[simp] theorem State.reportTrap_flow : (s.reportTrap).flow = some (trapFlow s.error) := rfl
@[simp] theorem State.reportTrap_ticksTaken : (s.reportTrap).ticksTaken = s.ticksTaken := rfl
@[simp] theorem State.reportTrap_bytesDrawn : (s.reportTrap).bytesDrawn = s.bytesDrawn := rfl

/-! ### `jumpGuarded` -/

@[simp] theorem State.jumpGuarded_v (a : Word) : (s.jumpGuarded a).v = s.v := by
  unfold State.jumpGuarded; split <;> rfl
@[simp] theorem State.jumpGuarded_i (a : Word) : (s.jumpGuarded a).i = s.i := by
  unfold State.jumpGuarded; split <;> rfl
@[simp] theorem State.jumpGuarded_pc (a : Word) : (s.jumpGuarded a).pc = a := by
  unfold State.jumpGuarded; split <;> rfl
@[simp] theorem State.jumpGuarded_sp (a : Word) : (s.jumpGuarded a).sp = s.sp := by
  unfold State.jumpGuarded; split <;> rfl
@[simp] theorem State.jumpGuarded_stack (a : Word) : (s.jumpGuarded a).stack = s.stack := by
  unfold State.jumpGuarded; split <;> rfl
@[simp] theorem State.jumpGuarded_mem (a : Word) : (s.jumpGuarded a).mem = s.mem := by
  unfold State.jumpGuarded; split <;> rfl
@[simp] theorem State.jumpGuarded_disp (a : Word) : (s.jumpGuarded a).disp = s.disp := by
  unfold State.jumpGuarded; split <;> rfl
@[simp] theorem State.jumpGuarded_dt (a : Word) : (s.jumpGuarded a).dt = s.dt := by
  unfold State.jumpGuarded; split <;> rfl
@[simp] theorem State.jumpGuarded_st (a : Word) : (s.jumpGuarded a).st = s.st := by
  unfold State.jumpGuarded; split <;> rfl
@[simp] theorem State.jumpGuarded_buzzer (a : Word) : (s.jumpGuarded a).buzzer = s.buzzer := by
  unfold State.jumpGuarded; split <;> rfl
@[simp] theorem State.jumpGuarded_trap (a : Word) : (s.jumpGuarded a).trap = s.trap := by
  unfold State.jumpGuarded; split <;> rfl
@[simp] theorem State.jumpGuarded_error (a : Word) : (s.jumpGuarded a).error = s.error := by
  unfold State.jumpGuarded; split <;> rfl
@[simp] theorem State.jumpGuarded_keys (a : Word) : (s.jumpGuarded a).keys = s.keys := by
  unfold State.jumpGuarded; split <;> rfl
@[simp] theorem State.jumpGuarded_ticksTaken (a : Word) : (s.jumpGuarded a).ticksTaken = s.ticksTaken := by
  unfold State.jumpGuarded; split <;> rfl
@[simp] theorem State.jumpGuarded_bytesDrawn (a : Word) : (s.jumpGuarded a).bytesDrawn = s.bytesDrawn := by
  unfold State.jumpGuarded; split <;> rfl

theorem State.jumpGuarded_below (a : Word) (h : s.jumpCount + 1 ≤ Config.jumpGuardThreshold) :
    s.jumpGuarded a = { s with pc := a, jumpCount := s.jumpCount + 1 } := by
  unfold State.jumpGuarded; rw [if_neg (by omega)]

theorem State.jumpGuarded_above (a : Word) (h : s.jumpCount + 1 > Config.jumpGuardThreshold) :
    s.jumpGuarded a = { s with pc := a, jumpCount := 0, flow := some .jump } := by
  unfold State.jumpGuarded; rw [if_pos h]

end Sys2Proof.Machine
end

