-- ==== Sys2Proof/Laws/Ops.lean ====
section
/-!
SUPPORT. One lemma per shared operation, saying all it can do; proofs cite these and do not unfold the
operation.
-/

namespace Sys2Proof.Machine

/-! ### Registers -/

/-- A register read after a register write. -/
theorem State.getV_setV (s : State) (r r' : Reg) (b : Byte) :
    (s.setV r b).getV r' = if r' = r then b else s.getV r' := by
  show (s.v.set r.val b r.isLt)[r'.val] = if r' = r then b else s.v[r'.val]
  rw [Vector.getElem_set]
  simp only [Fin.ext_iff, eq_comm]

@[simp] theorem State.getV_setV_same (s : State) (r : Reg) (b : Byte) : (s.setV r b).getV r = b := by
  rw [State.getV_setV, if_pos rfl]

theorem State.getV_setV_other (s : State) {r r' : Reg} (h : r' ≠ r) (b : Byte) :
    (s.setV r b).getV r' = s.getV r' := by rw [State.getV_setV, if_neg h]

/-- A register read depends on the register file alone. -/
theorem State.getV_of_v {s t : State} (h : s.v = t.v) (r : Reg) : s.getV r = t.getV r := by
  unfold State.getV; rw [h]

@[simp] theorem State.getV_advance (s : State) (r : Reg) : s.advance.getV r = s.getV r := rfl
@[simp] theorem State.getV_skipIf (s : State) (c : Bool) (r : Reg) : (s.skipIf c).getV r = s.getV r := rfl
@[simp] theorem State.getV_goTo (s : State) (a : Word) (r : Reg) : (s.goTo a).getV r = s.getV r := rfl
@[simp] theorem State.getV_yield (s : State) (f : Flow) (r : Reg) : (s.yield f).getV r = s.getV r := rfl
@[simp] theorem State.getV_setSt (s : State) (b : Byte) (r : Reg) : (s.setSt b).getV r = s.getV r := rfl
@[simp] theorem State.getV_setDt (s : State) (b : Byte) (r : Reg) : (s.setDt b).getV r = s.getV r := rfl
@[simp] theorem State.getV_drawByte (s : State) (r : Reg) : s.drawByte.2.getV r = s.getV r := rfl
@[simp] theorem State.getV_beginCycle (s : State) (n : Nat) (r : Reg) : (s.beginCycle n).getV r = s.getV r := rfl
@[simp] theorem State.getV_unsupportedOpcode (s : State) (r : Reg) : s.unsupportedOpcode.getV r = s.getV r := rfl
@[simp] theorem State.getV_jumpGuarded (s : State) (a : Word) (r : Reg) :
    (s.jumpGuarded a).getV r = s.getV r := State.getV_of_v (State.jumpGuarded_v s a) r

/-- A RAM read depends on the memory alone. -/
theorem State.ram_of_mem {s t : State} (h : s.mem = t.mem) (a : Nat) : s.ram a = t.ram a := by
  unfold State.ram; rw [h]

/-! ### Stack -/

/-- All a push can do. -/
theorem State.push_eq (s : State) (a : Word) :
    (∃ h : s.sp.toNat + 1 < Config.stackDepth,
      s.push a = .ok { s with sp := s.sp + 1, stack := s.stack.set (s.sp.toNat + 1) a h }) ∨
    (¬ s.sp.toNat + 1 < Config.stackDepth ∧ s.push a = .error .stackOverflow) := by
  unfold State.push
  by_cases h : s.sp.toNat + 1 < Config.stackDepth
  · exact .inl ⟨h, by rw [dif_pos h]⟩
  · exact .inr ⟨h, by rw [dif_neg h]⟩

/-- All a pop can do. -/
theorem State.pop_eq (s : State) :
    (s.sp = 0 ∧ s.pop = .error .stackUnderflow) ∨
    (s.sp ≠ 0 ∧ ∃ h : s.sp.toNat < Config.stackDepth,
      s.pop = .ok (s.stack[s.sp.toNat], { s with sp := s.sp - 1 })) ∨
    (s.sp ≠ 0 ∧ ¬ s.sp.toNat < Config.stackDepth ∧ s.pop = .error (.stackSlotOutOfRange s.sp.toNat)) := by
  unfold State.pop
  by_cases h0 : s.sp = 0
  · exact .inl ⟨h0, by rw [if_pos h0]⟩
  · by_cases h : s.sp.toNat < Config.stackDepth
    · exact .inr (.inl ⟨h0, h, by rw [if_neg h0, dif_pos h]⟩)
    · exact .inr (.inr ⟨h0, h, by rw [if_neg h0, dif_neg h]⟩)

/-! ### Timers -/

theorem toNat_countDown (b : Byte) (n : Nat) : (countDown b n).toNat = b.toNat - n := by
  unfold countDown
  rw [BitVec.toNat_ofNat]
  exact Nat.mod_eq_of_lt (by have := b.isLt; omega)

/-! ### Fetch and cycle -/

/-- All a fetch can do. -/
theorem State.fetch_eq (s : State) :
    (s.pc.toNat ≤ 4094 ∧ s.fetch = .ok (s.ram s.pc.toNat, s.ram (s.pc.toNat + 1))) ∨
    (4094 < s.pc.toNat ∧ s.fetch = .error (.fetchOutOfRange s.pc.toNat)) := by
  unfold State.fetch
  by_cases h : s.pc.toNat + 1 > Config.ramSize - 1
  · exact .inr ⟨by simp only [Config.ramSize] at h; omega, by rw [if_pos h]⟩
  · exact .inl ⟨by simp only [Config.ramSize] at h; omega, by rw [if_neg h]⟩

/-- All a cycle can do: the trap check's report, the fetch's fault, or the instruction at `PC`. -/
theorem cycle_cases (ticks : Nat) (s : State) :
    (s.trap = true ∧ cycle ticks s = .next s.reportTrap) ∨
    (s.trap = false ∧ 4094 < s.pc.toNat ∧ cycle ticks s = .fault (.fetchOutOfRange s.pc.toNat)) ∨
    (s.trap = false ∧ s.pc.toNat ≤ 4094 ∧
      cycle ticks s = exec (decodePair (s.ram s.pc.toNat) (s.ram (s.pc.toNat + 1))) (s.beginCycle ticks)) := by
  unfold cycle
  by_cases ht : s.trap = true
  · exact .inl ⟨ht, by rw [if_pos ht]⟩
  · have ht' : s.trap = false := by simpa using ht
    rw [if_neg ht]
    rcases State.fetch_eq (s.beginCycle ticks) with ⟨h, e⟩ | ⟨h, e⟩
    · exact .inr (.inr ⟨ht', h, by rw [e]; rfl⟩)
    · exact .inr (.inl ⟨ht', h, by rw [e]; rfl⟩)

/-- A step is a cycle with the next free tick count. -/
theorem step_eq_cycle (s : State) : step s = cycle (Config.freeTicks s.ticksTaken) s := rfl

/-! ### Load -/

/-- All a load can do. -/
theorem load_eq (bytes : List Byte) (s : State) :
    (bytes.length ≤ 3584 ∧ load bytes s = .next { s with
      mem := Memory.setBytes [] Config.progBase bytes
      stack := CallStack.zero
      disp := Display.blank
      pc := BitVec.ofNat 16 Config.progBase
      sp := 0
      jumpCount := 0
      trap := false
      error := none }) ∨
    (3584 < bytes.length ∧ load bytes s = .refused (.largeProgram bytes.length)) := by
  unfold load
  by_cases h : bytes.length > Config.progCapacity
  · exact .inr ⟨h, by rw [if_pos h]⟩
  · exact .inl ⟨Nat.le_of_not_gt h, by rw [if_neg h]⟩

/-! ### Display -/

/-- A cell read after a cell write. -/
theorem Display.cell_setCell (d : Display) (r r' : Fin Config.displayHeight) (c c' : Fin Config.displayWidth) (b : Bool) :
    (d.setCell r c b).cell r' c' = if r' = r ∧ c' = c then b else d.cell r' c' := by
  show ((d.set r.val (d[r.val].set c.val b c.isLt) r.isLt)[r'.val])[c'.val] = if r' = r ∧ c' = c then b else d[r'.val][c'.val]
  by_cases hr : r' = r
  · subst hr
    rw [Vector.getElem_set_self, Vector.getElem_set]
    simp only [Fin.ext_iff, eq_comm, true_and]
  · rw [Vector.getElem_set_ne _ _ (fun h => hr (Fin.ext h.symm)), if_neg (fun h => hr h.1)]

/-- Two displays with equal cells are equal. -/
theorem Display.ext_cell {d e : Display} (h : ∀ r c, d.cell r c = e.cell r c) : d = e := by
  refine Vector.ext fun r hr => Vector.ext fun c hc => ?_
  exact h ⟨r, hr⟩ ⟨c, hc⟩

@[simp] theorem Display.cell_blank (r : Fin Config.displayHeight) (c : Fin Config.displayWidth) :
    Display.blank.cell r c = false := by
  show ((Vector.replicate Config.displayHeight (Vector.replicate Config.displayWidth false))[r.val])[c.val] = false
  rw [Vector.getElem_replicate, Vector.getElem_replicate]

/-- All the range check of `DRW` can say. -/
theorem State.spriteFault_eq (s : State) (n : Nat) :
    ((n = 0 ∨ s.i.toNat + n ≤ 4096) ∧ s.spriteFault n = none) ∨
    (0 < n ∧ 4096 < s.i.toNat + n ∧ s.spriteFault n = some (.spriteOutOfRange (s.i.toNat + n - 1))) := by
  unfold State.spriteFault State.addrI
  by_cases h : n > 0 ∧ s.i.toNat + n - 1 > Config.ramSize - 1
  · refine .inr ⟨h.1, ?_, by rw [if_pos h]⟩
    have := h.2
    simp only [Config.ramSize] at this
    omega
  · refine .inl ⟨?_, by rw [if_neg h]⟩
    simp only [Config.ramSize] at h
    omega

end Sys2Proof.Machine
end

