-- ==== Sys2Proof/Laws/Display.lean ====
section
/-!
SUPPORT. The blit of `DRW` (44_display R192): the loop is one pass over the cells under the sprite's 1 bits,
and what such a pass does to a cell and to the collision when it meets no cell twice.
-/

namespace Sys2Proof.Machine

/-- A cell's position, row and column. -/
abbrev CellAt := Fin Config.displayHeight × Fin Config.displayWidth

/-- The cells under the 1 bits of one sprite row, leftmost first. -/
def rowCells (x0 : Nat) (r : Fin Config.displayHeight) (b : Byte) : List CellAt :=
  ((List.range 8).filter (spriteBit b)).map fun col => (r, wrapCol (x0 + col))

/-- The cells under the 1 bits of a sprite, in the order of the loop. -/
def spriteCells (x0 : Nat) : Nat → List Byte → List CellAt
  | _, [] => []
  | y, b :: bs => rowCells x0 (wrapRow y) b ++ spriteCells x0 (y + 1) bs

/-- A pass that inverts cells one after the other and notes collisions. -/
def flipCells (d : Display × Bool) (cells : List CellAt) : Display × Bool :=
  cells.foldl (fun d p => flipCell d p.1 p.2) d

theorem blitRow_eq_flipCells (x0 : Nat) (r : Fin Config.displayHeight) (b : Byte) (d : Display × Bool) :
    blitRow x0 r b d = flipCells d (rowCells x0 r b) := by
  unfold blitRow flipCells rowCells
  rw [List.foldl_map, List.foldl_filter]
  rfl

/-- All a blit can do: it inverts the cells under the sprite's 1 bits, in order. -/
theorem blitRows_eq_flipCells (x0 y : Nat) (bs : List Byte) (d : Display × Bool) :
    blitRows x0 y bs d = flipCells d (spriteCells x0 y bs) := by
  induction bs generalizing y d with
  | nil => rfl
  | cons b bs ih =>
    rw [blitRows, ih, blitRow_eq_flipCells, spriteCells]
    exact (List.foldl_append ..).symm

/-- A cell after one inversion. -/
theorem cell_flipCell (d : Display × Bool) (p : CellAt) (r : Fin Config.displayHeight) (c : Fin Config.displayWidth) :
    (flipCell d p.1 p.2).1.cell r c = (d.1.cell r c ^^ decide ((r, c) = p)) := by
  rw [flipCell, Display.cell_setCell]
  by_cases h : (r, c) = p
  · subst h; simp
  · rw [if_neg (fun e => h (Prod.ext e.1 e.2))]; simp [h]

/-- A cell after a pass over cells that are all different: inverted iff it is one of them. -/
theorem cell_flipCells {cells : List CellAt} (hn : cells.Nodup) (d : Display × Bool)
    (r : Fin Config.displayHeight) (c : Fin Config.displayWidth) :
    (flipCells d cells).1.cell r c = (d.1.cell r c ^^ decide ((r, c) ∈ cells)) := by
  induction cells generalizing d with
  | nil => simp [flipCells]
  | cons p cells ih =>
    have hp := List.nodup_cons.mp hn
    show (flipCells (flipCell d p.1 p.2) cells).1.cell r c = _
    rw [ih hp.2, cell_flipCell, Bool.xor_assoc]
    congr 1
    by_cases h : (r, c) = p
    · subst h; simp [hp.1]
    · simp [h]

/-- The collision of a pass over cells that are all different: some of them was set before. -/
theorem collision_flipCells {cells : List CellAt} (hn : cells.Nodup) (d : Display × Bool) :
    (flipCells d cells).2 = true ↔ d.2 = true ∨ ∃ p ∈ cells, d.1.cell p.1 p.2 = true := by
  induction cells generalizing d with
  | nil => simp [flipCells]
  | cons p cells ih =>
    have hp := List.nodup_cons.mp hn
    show (flipCells (flipCell d p.1 p.2) cells).2 = true ↔ _
    rw [ih hp.2]
    have hsame : ∀ q ∈ cells, (flipCell d p.1 p.2).1.cell q.1 q.2 = d.1.cell q.1 q.2 := by
      intro q hq
      have hne : (q.1, q.2) ≠ p := fun e => hp.1 (e ▸ hq)
      rw [cell_flipCell, decide_eq_false hne, Bool.xor_false]
    have hflag : (flipCell d p.1 p.2).2 = (d.2 || d.1.cell p.1 p.2) := rfl
    rw [hflag, Bool.or_eq_true]
    constructor
    · rintro ((h | h) | ⟨q, hq, h⟩)
      · exact .inl h
      · exact .inr ⟨p, List.mem_cons_self, h⟩
      · exact .inr ⟨q, List.mem_cons_of_mem _ hq, hsame q hq ▸ h⟩
    · rintro (h | ⟨q, hq, h⟩)
      · exact .inl (.inl h)
      · rcases List.mem_cons.mp hq with rfl | hq
        · exact .inl (.inr h)
        · exact .inr ⟨q, hq, (hsame q hq).trans h⟩

/-- The range check passed or not: all `DRW` can do. -/
theorem execDrwVxVyN_eq (x y : Reg) (n : Nibble) (s : State) :
    ((n.toNat = 0 ∨ s.i.toNat + n.toNat ≤ 4096) ∧
      execDrwVxVyN x y n s = .next ((({ s with disp := (s.blit x y n.toNat).1 }).setVF
        (collisionFlag (s.blit x y n.toNat).2)).advance.yield .draw)) ∨
    (0 < n.toNat ∧ 4096 < s.i.toNat + n.toNat ∧
      execDrwVxVyN x y n s = .fault (.spriteOutOfRange (s.i.toNat + n.toNat - 1))) := by
  unfold execDrwVxVyN rowCount
  rcases State.spriteFault_eq s n.toNat with ⟨h, e⟩ | ⟨h, h', e⟩
  · exact .inl ⟨h, by rw [e]⟩
  · exact .inr ⟨h, h', by rw [e]⟩

end Sys2Proof.Machine
end

