-- ==== Sys2Proof/Laws/Fetch.lean ====
section
/-!
SUPPORT. A word placed with `withFetchWord` is the one the next step executes.
-/

namespace Sys2Proof.Machine

open Codec

/-- Where a word is placed, two bytes can be fetched. -/
theorem State.placeWord_pc_le (s : State) (w : Word) : (s.placeWord w).pc.toNat ≤ 4094 := by
  unfold State.placeWord
  dsimp only
  split
  · decide
  · next h => simp only [Config.ramSize] at h; omega

/-- The two bytes of a placed word, read back. -/
theorem State.ram_placeWord {s : State} (h : s.mem.wf = true) (w : Word) :
    (s.placeWord w).ram (s.placeWord w).pc.toNat = (pairOf w).1 ∧
    (s.placeWord w).ram ((s.placeWord w).pc.toNat + 1) = (pairOf w).2 := by
  have hp := s.placeWord_pc_le w
  have hmem : (s.placeWord w).mem = s.mem.setBytes (s.placeWord w).pc.toNat [(pairOf w).1, (pairOf w).2] := rfl
  unfold State.ram
  rw [hmem, Memory.get_setBytes h (by simp only [List.length_cons, List.length_nil, Config.ramSize]; omega),
    Memory.get_setBytes h (by simp only [List.length_cons, List.length_nil, Config.ramSize]; omega)]
  refine ⟨?_, ?_⟩
  · rw [if_pos (by simp), Nat.sub_self]; rfl
  · rw [if_pos (by simp), Nat.add_sub_cancel_left]; rfl

/-- The step after a word is placed executes the instruction the word decodes to. -/
theorem step_withFetchWord {s : State} (h : s.mem.wf = true) (w : Nat) :
    step (s.withFetchWord 16 w) = exec (decodeWord (BitVec.ofNat 16 (w % 2 ^ 16)))
      ((s.withFetchWord 16 w).beginCycle (Config.freeTicks s.ticksTaken)) := by
  have hr := State.ram_placeWord h (BitVec.ofNat 16 (w % 2 ^ 16))
  have hp := s.placeWord_pc_le (BitVec.ofNat 16 (w % 2 ^ 16))
  rw [step_eq_cycle]
  rcases cycle_cases (Config.freeTicks (s.withFetchWord 16 w).ticksTaken) (s.withFetchWord 16 w) with
    ⟨ht, _⟩ | ⟨_, hlt, _⟩ | ⟨_, _, e⟩
  · exact absurd (show false = true from ht) (by decide)
  · exact absurd hp (Nat.not_le_of_lt hlt)
  · rw [e]
    have h1 : (s.withFetchWord 16 w).ram (s.withFetchWord 16 w).pc.toNat = _ := hr.1
    have h2 : (s.withFetchWord 16 w).ram ((s.withFetchWord 16 w).pc.toNat + 1) = _ := hr.2
    rw [h1, h2]
    rfl

end Sys2Proof.Machine
end

