-- ==== Sys2Proof/Laws/PerInstr.lean ====
section
/-!
SUPPORT. Statements made per instruction. `RowMatch`: the encoding of a well-formed instruction lies in
its own row of the opcode map (30_encoding R76).
-/

namespace Sys2Proof.Laws.RowMatch

open Codec

/-- The word of a well-formed instruction selects the row the table gives that instruction. -/
def Statement (i : Instr) : Prop := i.wellFormed = true → selects (encodeWord i) (tableRow i) = true

/-- A row with mask 0xF000 is selected by the opcode nibble. -/
theorem F000_of {p : Byte × Byte} {op : Nibble} {m : Word} (h : opOf p.1 = op)
    (hm : wordOf (op ++ (0 : Nibble), 0) = m) : selects (wordOf p) (m, 0xF000) = true := by
  rw [selects, beq_iff_eq, and_F000, h, hm]

/-- A row with mask 0xF00F is selected by the opcode nibble and the low nibble. -/
theorem F00F_of {p : Byte × Byte} {op n : Nibble} {m : Word} (h : opOf p.1 = op) (hn : nOf p.2 = n)
    (hm : wordOf (op ++ (0 : Nibble), (0 : Nibble) ++ n) = m) : selects (wordOf p) (m, 0xF00F) = true := by
  rw [selects, beq_iff_eq, and_F00F, h, hn, hm]

/-- A row with mask 0xF0FF is selected by the opcode nibble and the low byte. -/
theorem F0FF_of {p : Byte × Byte} {op : Nibble} {nn : Byte} {m : Word} (h : opOf p.1 = op) (hn : p.2 = nn)
    (hm : wordOf (op ++ (0 : Nibble), nn) = m) : selects (wordOf p) (m, 0xF0FF) = true := by
  rw [selects, beq_iff_eq, and_F0FF, h, hn, hm]

theorem cls : Statement .cls :=
  fun _ => F0FF_of (nn := 0xE0) (opOf_encodeXnn ..) (encodeXnn_snd ..) rfl
theorem ret : Statement .ret :=
  fun _ => F0FF_of (nn := 0xEE) (opOf_encodeXnn ..) (encodeXnn_snd ..) rfl
theorem jp (nnn : Addr) : Statement (.jp nnn) :=
  fun _ => F000_of (opOf_encodeNnn ..) rfl
theorem call (nnn : Addr) : Statement (.call nnn) :=
  fun _ => F000_of (opOf_encodeNnn ..) rfl
theorem seVxNn (x : Reg) (nn : Byte) : Statement (.seVxNn x nn) :=
  fun _ => F000_of (opOf_encodeXnn ..) rfl
theorem sneVxNn (x : Reg) (nn : Byte) : Statement (.sneVxNn x nn) :=
  fun _ => F000_of (opOf_encodeXnn ..) rfl
theorem seVxVy (x y : Reg) : Statement (.seVxVy x y) :=
  fun _ => F000_of (opOf_encodeXyn ..) rfl
theorem ldVxNn (x : Reg) (nn : Byte) : Statement (.ldVxNn x nn) :=
  fun _ => F000_of (opOf_encodeXnn ..) rfl
theorem addVxNn (x : Reg) (nn : Byte) : Statement (.addVxNn x nn) :=
  fun _ => F000_of (opOf_encodeXnn ..) rfl
theorem ldVxVy (x y : Reg) : Statement (.ldVxVy x y) :=
  fun _ => F00F_of (opOf_encodeXyn ..) (nOf_encodeXyn ..) rfl
theorem orVxVy (x y : Reg) : Statement (.orVxVy x y) :=
  fun _ => F00F_of (opOf_encodeXyn ..) (nOf_encodeXyn ..) rfl
theorem andVxVy (x y : Reg) : Statement (.andVxVy x y) :=
  fun _ => F00F_of (opOf_encodeXyn ..) (nOf_encodeXyn ..) rfl
theorem xorVxVy (x y : Reg) : Statement (.xorVxVy x y) :=
  fun _ => F00F_of (opOf_encodeXyn ..) (nOf_encodeXyn ..) rfl
theorem addVxVy (x y : Reg) : Statement (.addVxVy x y) :=
  fun _ => F00F_of (opOf_encodeXyn ..) (nOf_encodeXyn ..) rfl
theorem subVxVy (x y : Reg) : Statement (.subVxVy x y) :=
  fun _ => F00F_of (opOf_encodeXyn ..) (nOf_encodeXyn ..) rfl
theorem shrVxVy (x y : Reg) : Statement (.shrVxVy x y) :=
  fun _ => F00F_of (opOf_encodeXyn ..) (nOf_encodeXyn ..) rfl
theorem subnVxVy (x y : Reg) : Statement (.subnVxVy x y) :=
  fun _ => F00F_of (opOf_encodeXyn ..) (nOf_encodeXyn ..) rfl
theorem shlVxVy (x y : Reg) : Statement (.shlVxVy x y) :=
  fun _ => F00F_of (opOf_encodeXyn ..) (nOf_encodeXyn ..) rfl
theorem ldINnn (nnn : Addr) : Statement (.ldINnn nnn) :=
  fun _ => F000_of (opOf_encodeNnn ..) rfl
theorem rndVxNn (x : Reg) (nn : Byte) : Statement (.rndVxNn x nn) :=
  fun _ => F000_of (opOf_encodeXnn ..) rfl
theorem drwVxVyN (x y : Reg) (n : Nibble) : Statement (.drwVxVyN x y n) :=
  fun _ => F000_of (opOf_encodeXyn ..) rfl
theorem ldVxDt (x : Reg) : Statement (.ldVxDt x) :=
  fun _ => F0FF_of (nn := 0x07) (opOf_encodeXnn ..) (encodeXnn_snd ..) rfl
theorem ldDtVx (x : Reg) : Statement (.ldDtVx x) :=
  fun _ => F0FF_of (nn := 0x15) (opOf_encodeXnn ..) (encodeXnn_snd ..) rfl
theorem ldStVx (x : Reg) : Statement (.ldStVx x) :=
  fun _ => F0FF_of (nn := 0x18) (opOf_encodeXnn ..) (encodeXnn_snd ..) rfl
theorem unimplementedGroup9 (rest : BitVec 12) : Statement (.unimplementedGroup9 rest) :=
  fun _ => F000_of (opOf_encodeNnn ..) rfl
theorem unimplementedGroupB (rest : BitVec 12) : Statement (.unimplementedGroupB rest) :=
  fun _ => F000_of (opOf_encodeNnn ..) rfl
theorem unimplementedGroupE (rest : BitVec 12) : Statement (.unimplementedGroupE rest) :=
  fun _ => F000_of (opOf_encodeNnn ..) rfl

theorem unimplementedFallback (w : Word) : Statement (.unimplementedFallback w) := by
  intro _
  simp [selects, tableRow]

end Sys2Proof.Laws.RowMatch
end

