-- ==== Sys2Proof/Machine/Assembly.lean ====
section
/-!
DEFINITION. What 30_encoding R84 to R90 say of the textual form of instructions. The assembler and the
disassembler are outside the hardware (00_scope R4); no meaning uses this file. Lines are taken as already
split into tokens, since the token table is not in the spec (R84); log 31.
-/

namespace Sys2Proof.Asm

/-! ### Register names and literals (R85, R86) -/

/-- The value of a digit character, in either case. In a register name that is R85; in a hexadecimal literal
the spec gives no case, DESIGN CHOICE, safe; log 31. -/
def digitOf (c : Char) : Option Nat :=
  let k := c.toUpper.toNat
  if 48 ≤ k ∧ k ≤ 57 then some (k - 48)
  else if 65 ≤ k ∧ k ≤ 70 then some (k - 55)
  else none

/-- `V0` .. `VF` and the aliases `V10` .. `V15`, case-insensitive (R85). -/
def regOfName : List Char → Option Reg
  | [v, d] => if v.toUpper = 'V' then (digitOf d).map (Fin.ofNat 16) else none
  | [v, '1', d] =>
    if v.toUpper = 'V' then
      (digitOf d).bind fun k => if k ≤ 5 then some (Fin.ofNat 16 (10 + k)) else none
    else none
  | _ => none

/-- The number that digits of a base stand for, the first the most significant; all must be of the base. -/
def digitsValue (base : Nat) : Nat → List Char → Option Nat
  | acc, [] => some acc
  | acc, c :: cs => (digitOf c).bind fun d => if d < base then digitsValue base (acc * base + d) cs else none

/-- A numeric literal: `0b`-binary, `0x`-hex or bare decimal (R86). R86 leaves open, and here is a DESIGN CHOICE,
safe, log 31: a prefix in lower case only, as R86 writes it; hexadecimal digits in either case; leading zeros
accepted, a prefix with no digit after it rejected; no bound, since no field is named. -/
def literal : List Char → Option Nat
  | '0' :: 'b' :: d :: ds => digitsValue 2 0 (d :: ds)
  | '0' :: 'x' :: d :: ds => digitsValue 16 0 (d :: ds)
  | d :: ds => digitsValue 10 0 (d :: ds)
  | [] => none

/-! ### Mnemonics and operand shapes (R90) -/

/-- An operand as the document writes it. -/
inductive TextOperand where
  | reg (r : Reg)
  | number (k : Nat)
  | addressRegister
  | delayTimer
  | soundTimer
  deriving DecidableEq, Repr

/-- The mnemonic and the operands of an instruction (R90); `UNKNOWN` for the rest (R89), here with no operand,
which R89 leaves open: DESIGN CHOICE, safe; log 31. -/
def shape : Instr → String × List TextOperand
  | .cls => ("CLS", [])
  | .ret => ("RET", [])
  | .jp nnn => ("JP", [.number nnn.toNat])
  | .call nnn => ("CALL", [.number nnn.toNat])
  | .seVxNn x nn => ("SE", [.reg x, .number nn.toNat])
  | .sneVxNn x nn => ("SNE", [.reg x, .number nn.toNat])
  | .seVxVy x y => ("SE", [.reg x, .reg y])
  | .ldVxNn x nn => ("LD", [.reg x, .number nn.toNat])
  | .addVxNn x nn => ("ADD", [.reg x, .number nn.toNat])
  | .ldVxVy x y => ("LD", [.reg x, .reg y])
  | .orVxVy x y => ("OR", [.reg x, .reg y])
  | .andVxVy x y => ("AND", [.reg x, .reg y])
  | .xorVxVy x y => ("XOR", [.reg x, .reg y])
  | .addVxVy x y => ("ADD", [.reg x, .reg y])
  | .subVxVy x y => ("SUB", [.reg x, .reg y])
  | .shrVxVy x y => ("SHR", [.reg x, .reg y])
  | .subnVxVy x y => ("SUBN", [.reg x, .reg y])
  | .shlVxVy x y => ("SHL", [.reg x, .reg y])
  | .ldINnn nnn => ("LD", [.addressRegister, .number nnn.toNat])
  | .rndVxNn x nn => ("RND", [.reg x, .number nn.toNat])
  | .drwVxVyN x y n => ("DRW", [.reg x, .reg y, .number n.toNat])
  | .ldVxDt x => ("LD", [.reg x, .delayTimer])
  | .ldDtVx x => ("LD", [.delayTimer, .reg x])
  | .ldStVx x => ("LD", [.soundTimer, .reg x])
  | .unimplementedGroup9 _ | .unimplementedGroupB _ | .unimplementedGroupE _ => ("UNKNOWN", [])
  | .unimplementedFallback _ => ("UNKNOWN", [])

/-- A disassembly line: address, mnemonic, operands (R89). -/
structure DisLine where
  address : Nat
  mnemonic : String
  operands : List TextOperand
  deriving DecidableEq, Repr

/-- The disassembly of a buffer, two bytes at a time, from an address (R89: the base of the address
column is not given, so it is an argument). A single byte left at the end of a buffer of odd length gives
no line and no fault: R89 and R101 give no outcome for it, DESIGN CHOICE, safe; log 31. -/
def disassemble : Nat → List Byte → List DisLine
  | a, b0 :: b1 :: rest =>
    { address := a, mnemonic := (shape (decodePair b0 b1)).1, operands := (shape (decodePair b0 b1)).2 } ::
      disassemble (a + 2) rest
  | _, _ => []

/-! ### Statements (R84, R87, R88) -/

/-- The three mnemonics with an address operand, where a label may stand (R87: "wherever an address operand is
expected"; that `LD I,nnn` is one of them is DEDUCED, safe; log 31). -/
inductive AddrMnemonic where
  | jp
  | call
  | ldI
  deriving DecidableEq, Repr

/-- The instruction of an address mnemonic. -/
def AddrMnemonic.instr : AddrMnemonic → Addr → Instr
  | .jp, a => .jp a
  | .call, a => .call a
  | .ldI, a => .ldINnn a

/-- One statement of a source text (R84). -/
inductive Line where
  /-- `.name` on a line of its own (R87); any name, its letter case kept: DESIGN CHOICE, safe; log 31 -/
  | label (name : String)
  /-- a mnemonic statement with literal operands (R90) -/
  | instr (i : Instr)
  /-- a mnemonic statement with a label as its address operand (R87) -/
  | toLabel (m : AddrMnemonic) (name : String)
  /-- a data line (R88) -/
  | data (bytes : List Byte)
  deriving DecidableEq, Repr

/-- Why a source text is rejected. -/
inductive AsmError where
  /-- a label never defined, by its name (R87) -/
  | undefinedLabel (name : String)
  /-- a label defined twice (R87: names are unique) -/
  | duplicateLabel (name : String)
  /-- a data line with an odd number of bytes (R88) -/
  | oddData
  /-- a data line with no byte (R88: "one or more byte literals") -/
  | emptyData
  /-- a label whose address does not fit in twelve bits (not in the spec; log 31) -/
  | labelOutOfRange (name : String)
  /-- an unimplemented word; R90 leaves open whether it has a mnemonic, here none: DESIGN CHOICE, safe; log 31 -/
  | noMnemonic
  deriving DecidableEq, Repr

/-- How many bytes a statement emits. -/
def Line.size : Line → Nat
  | .label _ => 0
  | .instr _ | .toLabel _ _ => Config.instrBytes
  | .data bs => bs.length

/-- The labels with their addresses: the load base plus the bytes emitted before (R87). -/
def labels : Nat → List Line → List (String × Nat)
  | _, [] => []
  | off, .label name :: ls => (name, Config.progBase + off) :: labels off ls
  | off, l :: ls => labels (off + l.size) ls

/-- The first label that is defined again later. Names are compared with their letter case, which the spec
leaves open (R84 and R85 speak of mnemonics, registers and keywords): DESIGN CHOICE, safe; log 31. -/
def duplicate : List (String × Nat) → Option String
  | [] => none
  | (name, _) :: ls => if ls.any (fun l => l.1 == name) then some name else duplicate ls

/-- The bytes of a pair, in order. -/
def pairBytes (p : Byte × Byte) : List Byte := [p.1, p.2]

/-- The bytes of one statement, with the label table known. A label is looked up with its letter case: DESIGN
CHOICE, safe; log 31. -/
def emit (table : List (String × Nat)) : Line → Except AsmError (List Byte)
  | .label _ => .ok []
  | .instr i => if i.implemented then .ok (pairBytes (encode i)) else .error .noMnemonic
  | .toLabel m name =>
    match table.find? (fun l => l.1 == name) with
    | none => .error (.undefinedLabel name)
    | some (_, a) =>
      if a < Config.ramSize then .ok (pairBytes (encode (m.instr (BitVec.ofNat 12 a))))
      else .error (.labelOutOfRange name)
  | .data [] => .error .emptyData
  | .data (b :: bs) => if (b :: bs).length % 2 = 0 then .ok (b :: bs) else .error .oddData

/-- The bytes of statements, in order. -/
def emitAll (table : List (String × Nat)) : List Line → Except AsmError (List Byte)
  | [] => .ok []
  | l :: ls =>
    match emit table l with
    | .error e => .error e
    | .ok bs =>
      match emitAll table ls with
      | .error e => .error e
      | .ok rest => .ok (bs ++ rest)

/-- The bytes of a source text (R84, R87, R88). Of several errors the first found is answered, a duplicate label
before all others: DESIGN CHOICE, safe; log 31. -/
def assemble (src : List Line) : Except AsmError (List Byte) :=
  match duplicate (labels 0 src) with
  | some name => .error (.duplicateLabel name)
  | none => emitAll (labels 0 src) src

end Sys2Proof.Asm
end

