-- ==== Sys2Proof/Tests/Slice0.lean ====
section
/-!
SUPPORT. Tests: ill-formed terms refused, one word of each row decoded, one-instruction vectors of
95_test_vectors (its number in the docstring), and a witness for the hypotheses of each obligation.
-/

namespace Sys2Proof.Tests

open Sys2Proof.Machine Sys2Proof.Codec

/-! ### Helpers -/

/-- The state a next outcome holds. -/
def got : Outcome State Fault Refusal → Option State
  | .next t => some t
  | .fault _ | .refused _ => none

/-- The fault an outcome holds. -/
def faulted : Outcome State Fault Refusal → Option Fault
  | .fault f => some f
  | .next _ | .refused _ => none

/-- The next state's view after one instruction word. -/
def after {α : Type} (w : Word) (s : State) (view : State → α) : Option α := (got (exec (decodeWord w) s)).map view

/-- The engine after creation with registers set. -/
def withV (rs : List (Reg × Byte)) : State := rs.foldl (fun s p => s.setV p.1 p.2) State.reset

/-- The view of an ALU vector: `V[x]`, `VF`, `PC`. -/
def alu (x : Reg) (t : State) : Byte × Byte × Word := (t.getV x, t.getV regVF, t.pc)

/-- A state with a sprite byte pair at 0x300 and `I` there. -/
def sprite (b0 b1 : Byte) (rs : List (Reg × Byte)) : State :=
  { withV rs with i := 0x300, mem := Memory.setBytes [] 0x300 [b0, b1] }

/-- The cells that are set, as (row, column), in reading order. -/
def setCells (t : State) : List (Nat × Nat) :=
  (List.finRange Config.displayHeight).flatMap fun r =>
    ((List.finRange Config.displayWidth).filter fun c => t.disp.cell r c).map fun c => (r.val, c.val)

/-- A state with two bytes at `PC`. -/
def at_ (pc : Word) (b0 b1 : Byte) : State :=
  { State.reset with pc := pc, mem := Memory.setBytes [] pc.toNat [b0, b1] }

/-! ### WellFormed: an ill-formed term for each check (30_encoding R78) -/

theorem test_wf_refuses_cls :
    (Instr.unimplementedFallback 0x00E0).wellFormed = false := by decide

theorem test_wf_refuses_ret :
    (Instr.unimplementedFallback 0x0AEE).wellFormed = false := by decide

theorem test_wf_refuses_jp :
    (Instr.unimplementedFallback 0x1234).wellFormed = false := by decide

theorem test_wf_refuses_or :
    (Instr.unimplementedFallback 0x8121).wellFormed = false := by decide

theorem test_wf_refuses_shl :
    (Instr.unimplementedFallback 0x812E).wellFormed = false := by decide

theorem test_wf_refuses_group9 :
    (Instr.unimplementedFallback 0x9000).wellFormed = false := by decide

theorem test_wf_refuses_dt :
    (Instr.unimplementedFallback 0xF107).wellFormed = false := by decide

theorem test_wf_refuses_st :
    (Instr.unimplementedFallback 0xF118).wellFormed = false := by decide

theorem test_wf_accepts_zero :
    (Instr.unimplementedFallback 0x0000).wellFormed = true := by decide

theorem test_wf_accepts_group8 :
    (Instr.unimplementedFallback 0x8128).wellFormed = true := by decide

theorem test_wf_accepts_groupF :
    (Instr.unimplementedFallback 0xF10A).wellFormed = true := by decide

/-! ### Decode: a word of each row, bit by bit from 30_encoding R71 and R76 -/

theorem test_decode_cls :
    decodeTableWord 16 0b0000000011100000 = some (.cls) := by decide

theorem test_decode_ret :
    decodeTableWord 16 0b0000000011101110 = some (.ret) := by decide

theorem test_decode_jp :
    decodeTableWord 16 0b0001001000000100 = some (.jp 0x204) := by decide

theorem test_decode_call :
    decodeTableWord 16 0b0010001100000001 = some (.call 0x301) := by decide

theorem test_decode_seVxNn :
    decodeTableWord 16 0b0011010110000001 = some (.seVxNn 5 0x81) := by decide

theorem test_decode_sneVxNn :
    decodeTableWord 16 0b0100001100010001 = some (.sneVxNn 3 0x11) := by decide

theorem test_decode_seVxVy :
    decodeTableWord 16 0b0101000100100000 = some (.seVxVy 1 2) := by decide

theorem test_decode_ldVxNn :
    decodeTableWord 16 0b0110101011111110 = some (.ldVxNn 10 0xFE) := by decide

theorem test_decode_addVxNn :
    decodeTableWord 16 0b0111000000000011 = some (.addVxNn 0 3) := by decide

theorem test_decode_ldVxVy :
    decodeTableWord 16 0b1000000100100000 = some (.ldVxVy 1 2) := by decide

theorem test_decode_orVxVy :
    decodeTableWord 16 0b1000000100100001 = some (.orVxVy 1 2) := by decide

theorem test_decode_andVxVy :
    decodeTableWord 16 0b1000000100100010 = some (.andVxVy 1 2) := by decide

theorem test_decode_xorVxVy :
    decodeTableWord 16 0b1000000100100011 = some (.xorVxVy 1 2) := by decide

theorem test_decode_addVxVy :
    decodeTableWord 16 0b1000000100100100 = some (.addVxVy 1 2) := by decide

theorem test_decode_subVxVy :
    decodeTableWord 16 0b1000000100100101 = some (.subVxVy 1 2) := by decide

theorem test_decode_shrVxVy :
    decodeTableWord 16 0b1000000100100110 = some (.shrVxVy 1 2) := by decide

theorem test_decode_subnVxVy :
    decodeTableWord 16 0b1000000100100111 = some (.subnVxVy 1 2) := by decide

theorem test_decode_shlVxVy :
    decodeTableWord 16 0b1000000100101110 = some (.shlVxVy 1 2) := by decide

theorem test_decode_ldINnn :
    decodeTableWord 16 0b1010001000001100 = some (.ldINnn 0x20C) := by decide

theorem test_decode_rndVxNn :
    decodeTableWord 16 0b1100000100001111 = some (.rndVxNn 1 0x0F) := by decide

theorem test_decode_drwVxVyN :
    decodeTableWord 16 0b1101001000111111 = some (.drwVxVyN 2 3 15) := by decide

theorem test_decode_ldVxDt :
    decodeTableWord 16 0b1111001100000111 = some (.ldVxDt 3) := by decide

theorem test_decode_ldDtVx :
    decodeTableWord 16 0b1111010000010101 = some (.ldDtVx 4) := by decide

theorem test_decode_ldStVx :
    decodeTableWord 16 0b1111001000011000 = some (.ldStVx 2) := by decide

theorem test_decode_unimplementedGroup9 :
    decodeTableWord 16 0b1001000100100000 = some (.unimplementedGroup9 0x120) := by decide

theorem test_decode_unimplementedGroupB :
    decodeTableWord 16 0b1011001000000000 = some (.unimplementedGroupB 0x200) := by decide

theorem test_decode_unimplementedGroupE :
    decodeTableWord 16 0b1110000110011110 = some (.unimplementedGroupE 0x19E) := by decide

theorem test_decode_unimplementedFallback :
    decodeTableWord 16 0b1000000100101111 = some (.unimplementedFallback 0x812F) := by decide

/-- Vectors of 95_test_vectors, Decode: words whose don't-care bits are not 0, and unimplemented words. -/
theorem test_decode_notes :
    ([0x0AE0, 0x512F, 0x00E1, 0xF11E, 0xF165] : List Word).map decodeWord = [.cls, .seVxVy 1 2, .unimplementedFallback 0x00E1, .unimplementedFallback 0xF11E, .unimplementedFallback 0xF165] := by decide

/-- A byte sequence too short for an instruction is rejected by name. -/
theorem test_decode_truncated :
    decode [0x00] = .error .truncated := by decide

/-- Codec vectors: bytes 8A B4, at offset 1 of a buffer. -/
theorem test_codec_fields :
    (opCode [0, 0x8A, 0xB4] 1, opX [0, 0x8A, 0xB4] 1, opY [0, 0x8A, 0xB4] 1, opN [0, 0x8A, 0xB4] 1, opNn [0, 0x8A, 0xB4] 1, opNnn [0, 0x8A, 0xB4] 1) = (some 8, some 10, some 11, some 4, some 0xB4, some 0xAB4) := by decide

/-- Codec vector: a buffer of 3 bytes at offset 2. -/
theorem test_codec_fault :
    codecAt opNn [0, 0, 0] 2 = .error (.codecWindow 2) ∧ codecAt opX [0, 0, 7] 2 = .ok 7 := ⟨rfl, rfl⟩

/-- S3. -/
theorem test_encoders :
    encodeNnn 0xA 0xFFF = (0xAF, 0xFF) ∧ encodeXnn 0xC 0xF 0x00 = (0xCF, 0x00) ∧ encodeXyn 0xD 1 2 0xF = (0xD1, 0x2F) := by decide

/-- S2 and S7: `CLS`, `RET`; a forward label; a label never defined. -/
theorem test_assemble :
    (Asm.assemble [.instr .cls, .instr .ret]).toOption = some [0x00, 0xE0, 0x00, 0xEE] ∧
    (Asm.assemble [.toLabel .jp ".end", .instr .cls, .label ".end", .instr .ret]).toOption =
      some [0x12, 0x04, 0x00, 0xE0, 0x00, 0xEE] ∧
    (Asm.assemble [.toLabel .jp ".end"]).toOption = none := by decide

/-- R86: the three forms; R88: a data line needs bytes, an even number of them. -/
theorem test_literal_and_data :
    Asm.literal ['0', 'b', '1', '0', '1'] = some 5 ∧ Asm.literal ['0', 'x', '2', '0', 'C'] = some 0x20C ∧
    Asm.literal ['2', '0', '0'] = some 200 ∧ (Asm.assemble [.data [0xF0, 0x81]]).toOption = some [0xF0, 0x81] ∧
    (Asm.assemble [.data []]).toOption = none ∧ (Asm.assemble [.data [1]]).toOption = none := by decide

/-! ### Control flow (vectors CF) -/

/-- CF5. -/
theorem test_call :
    after 0x2206 State.reset (fun t => (t.sp, t.stack.get 1, t.pc)) = some (1, 0x200, 0x206) := by decide

/-- CF7. -/
theorem test_call_last_slot :
    after 0x2300 { State.reset with sp := 14, pc := 0x250 } (fun t => (t.sp, t.stack.get 15, t.pc)) = some (15, 0x250, 0x300) := by decide

/-- CF6. -/
theorem test_call_overflow :
    faulted (exec (decodeWord 0x2300) { State.reset with sp := 15 }) = some .stackOverflow := by decide

/-- CF8, for either value of the open `RET_OFFSET`; the slot is not cleared. -/
theorem test_ret :
    after 0x00EE { State.reset with sp := 1, stack := CallStack.zero.set 1 0x200, pc := 0x208 }
      (fun t => (t.sp, t.stack.get 1, t.pc)) = some (0, 0x200, 0x200 + BitVec.ofNat 16 Config.retOffset) := rfl

/-- CF9. -/
theorem test_ret_underflow :
    faulted (exec (decodeWord 0x00EE) State.reset) = some .stackUnderflow := by decide

/-- CF10. -/
theorem test_se_nn_taken :
    after 0x3000 { State.reset with pc := 0x208 } (·.pc) = some 0x20C := by decide

/-- CF17. -/
theorem test_se_nn_top :
    after 0x3000 { State.reset with pc := 4094 } (·.pc) = some 4098 := by decide

/-- CF12. -/
theorem test_sne_taken :
    after 0x4311 { withV [(3, 0x10)] with pc := 0x300 } (·.pc) = some 0x304 := by decide

/-- CF13. -/
theorem test_sne_not_taken :
    after 0x4310 { withV [(3, 0x10)] with pc := 0x300 } (·.pc) = some 0x302 := by decide

/-- CF14. -/
theorem test_se_reg_taken :
    after 0x5120 { withV [(1, 7), (2, 7)] with pc := 0x210 } (·.pc) = some 0x214 := by decide

/-- CF15. -/
theorem test_se_reg_not_taken :
    after 0x5120 { withV [(1, 7), (2, 8)] with pc := 0x210 } (·.pc) = some 0x212 := by decide

/-- CF2, at the open threshold T: the count T becomes T + 1 > T. -/
theorem test_jp_yields :
    ∃ t, exec (decodeWord 0x1200) { State.reset with jumpCount := Config.jumpGuardThreshold } = .next t ∧
      t.jumpCount = 0 ∧ t.flow = some .jump ∧ t.pc = 0x200 := by
  refine ⟨_, rfl, ?_⟩
  rw [State.jumpGuarded, if_pos (Nat.lt_succ_self _)]
  decide

/-- CF1, CF3: at most the threshold, no yield. -/
theorem test_jp_counts :
    ∀ k, k + 1 ≤ Config.jumpGuardThreshold → ∃ t, exec (decodeWord 0x1204) { State.reset with jumpCount := k } = .next t ∧
      t.jumpCount = k + 1 ∧ t.flow = none ∧ t.pc = 0x204 := by
  intro k hk
  refine ⟨_, rfl, ?_⟩
  rw [State.jumpGuarded, if_neg (Nat.not_lt.mpr hk)]
  exact ⟨rfl, rfl, rfl⟩

/-- CF18. -/
theorem test_jump_run_ends :
    after 0x6000 { State.reset with jumpCount := 5 } (·.jumpCount) = some 0 := by decide

/-! ### Loads, arithmetic, logic, shifts (vectors A); `PC` is 0x202 after each -/

/-- A1. -/
theorem test_ld_nn :
    after 0x6AFF (withV []) (alu 10) = some (0xFF, 0, 0x202) := by decide

/-- A2. -/
theorem test_ld_nn_vf :
    after 0x6F01 (withV [(15, 9)]) (alu 15) = some (1, 1, 0x202) := by decide

/-- A3. -/
theorem test_add_nn :
    after 0x7003 (withV [(0, 5), (15, 9)]) (alu 0) = some (8, 9, 0x202) := by decide

/-- A4. -/
theorem test_add_nn_wraps :
    after 0x7001 (withV [(0, 0xFF)]) (alu 0) = some (0, 0, 0x202) := by decide

/-- A6. -/
theorem test_ld_reg :
    after 0x8010 (withV [(1, 0x64)]) (alu 0) = some (0x64, 0, 0x202) := by decide

/-- A7. -/
theorem test_or :
    after 0x8011 (withV [(0, 0xF0), (1, 0x0F), (15, 1)]) (alu 0) = some (0xFF, 1, 0x202) := by decide

/-- A8. -/
theorem test_and :
    after 0x8012 (withV [(0, 0xF0), (1, 0x3C)]) (alu 0) = some (0x30, 0, 0x202) := by decide

/-- A9. -/
theorem test_xor :
    after 0x8013 (withV [(0, 0x38), (1, 0x64)]) (alu 0) = some (0x5C, 0, 0x202) := by decide

/-- A11. -/
theorem test_add :
    after 0x8014 (withV [(0, 200), (1, 100)]) (alu 0) = some (44, 1, 0x202) := by decide

/-- A16. -/
theorem test_add_vf :
    after 0x8F04 (withV [(15, 0xFF), (0, 1)]) (alu 15) = some (1, 1, 0x202) := by decide

/-- A18. -/
theorem test_sub :
    after 0x8015 (withV [(0, 44), (1, 100)]) (alu 0) = some (200, 0, 0x202) := by decide

/-- A22. -/
theorem test_sub_vf :
    after 0x8FF5 (withV [(15, 5)]) (alu 15) = some (1, 1, 0x202) := by decide

/-- A28. -/
theorem test_shr :
    after 0x8016 (withV [(0, 0xFF)]) (alu 0) = some (0x7F, 1, 0x202) := by decide

/-- A29. -/
theorem test_shr_vf :
    after 0x8F06 (withV [(15, 0xFF)]) (alu 15) = some (0, 0, 0x202) := by decide

/-- A23. -/
theorem test_subn :
    after 0x8017 (withV [(0, 200), (1, 100)]) (alu 0) = some (156, 0, 0x202) := by decide

/-- A25. -/
theorem test_subn_equal :
    after 0x8017 (withV [(0, 9), (1, 9)]) (alu 0) = some (0, 1, 0x202) := by decide

/-- A30. -/
theorem test_shl :
    after 0x800E (withV [(0, 0x9C)]) (alu 0) = some (0x38, 1, 0x202) := by decide

/-- A33. -/
theorem test_shl_vf :
    after 0x8F0E (withV [(15, 0x80)]) (alu 15) = some (2, 2, 0x202) := by decide

/-- A36. -/
theorem test_ld_i :
    after 0xAFFF State.reset (fun t => (t.i, t.pc)) = some (0xFFF, 0x202) := by decide

/-- A39, for any byte drawn; the next byte is another. -/
theorem test_rnd :
    after 0xC1FF State.reset (fun t => (t.getV 1, t.bytesDrawn)) = some (Config.freeByte 0 &&& 0xFF, 1) := rfl

/-! ### Display (vectors DP) -/

/-- DP1. -/
theorem test_cls :
    after 0x00E0 { withV [(15, 1)] with disp := Display.blank.setCell 3 4 true } (fun t => (setCells t, t.getV 15, t.flow)) = some ([], 1, none) := by decide +kernel

/-- DP2. -/
theorem test_drw :
    after 0xD011 (sprite 0xFF 0 []) (fun t => (setCells t, t.getV 15, t.flow)) =
      some ([(0, 0), (0, 1), (0, 2), (0, 3), (0, 4), (0, 5), (0, 6), (0, 7)], 0, some .draw) := by decide +kernel

/-- DP5. -/
theorem test_drw_wraps :
    after 0xD012 (sprite 0xF0 0x81 [(0, 62), (1, 31)]) (fun t => (setCells t, t.getV 15)) =
      some ([(0, 5), (0, 62), (31, 0), (31, 1), (31, 62), (31, 63)], 0) := by decide +kernel

/-- S5: the second draw of DP6 clears the cell and reports the collision. -/
theorem test_drw_collides :
    after 0xD011 { sprite 0x80 0 [(0, 70), (1, 40)] with disp := Display.blank.setCell 8 6 true } (fun t => (setCells t, t.getV 15)) = some ([], 1) := by decide +kernel

/-- DP12: the column is read before `VF` is written. -/
theorem test_drw_vf :
    after 0xDF01 (sprite 0x80 0 [(15, 3)]) (fun t => (setCells t, t.getV 15)) = some ([(0, 3)], 0) := by decide +kernel

/-- DP10. -/
theorem test_drw_fault :
    faulted (exec (decodeWord 0xD013) { State.reset with i := 0xFFE }) = some (.spriteOutOfRange 0x1000) := by decide

/-! ### Timers (vectors T) -/

/-- T2, T7: ticks come before the instruction. -/
theorem test_ld_vx_dt :
    (got (cycle 2 { at_ 0x200 0xF3 0x07 with dt := 0x2A, st := 200 })).map (fun t => (t.getV 3, t.dt, t.st, t.buzzer, t.pc)) =
      some (0x28, 0x28, 198, true, 0x202) := by decide

/-- T3. -/
theorem test_ld_dt_vx :
    after 0xF015 (withV [(0, 60)]) (fun t => (t.dt, t.pc)) = some (60, 0x202) := by decide

/-- T4. -/
theorem test_ld_st_vx :
    after 0xF218 (withV [(2, 5)]) (fun t => (t.st, t.buzzer)) = some (5, true) := by decide

/-- T5. -/
theorem test_ld_st_zero :
    after 0xF218 { State.reset with st := 9, buzzer := true } (fun t => (t.st, t.buzzer)) = some (0, false) := by decide

/-- T6, T8: the count stops at 0. -/
theorem test_ticks_saturate :
    (got (cycle 1000 { at_ 0x200 0x60 0 with st := 1, buzzer := true })).map (fun t => (t.dt, t.st, t.buzzer)) = some (0, 0, false) := by decide

/-! ### Unimplemented words, trap, host (vectors X) -/

/-- X1. -/
theorem test_unimplemented_fallback :
    after 0x0000 { State.reset with pc := 0x20C } (fun t => (t.trap, t.error, t.pc, t.flow)) =
      some (true, some Config.errorMessage, 0x20C, some (.error Config.errorMessage)) := rfl

theorem test_unimplemented_group9 :
    after 0x9120 State.reset (fun t => (t.trap, t.error, t.pc, t.jumpCount)) = some (true, some Config.errorMessage, 0x200, 0) := rfl

theorem test_unimplemented_groupB :
    after 0xB200 State.reset (fun t => (t.trap, t.error, t.pc, t.jumpCount)) = some (true, some Config.errorMessage, 0x200, 0) := rfl

theorem test_unimplemented_groupE :
    after 0xE19E State.reset (fun t => (t.trap, t.error, t.pc, t.jumpCount)) = some (true, some Config.errorMessage, 0x200, 0) := rfl

/-- X2: the trap check precedes the ticks. -/
theorem test_trap_first :
    (got (cycle 7 { State.reset with trap := true, error := some "m", dt := 9 })).map (fun t => (t.flow, t.dt)) = some (some (.error "m"), 9) := by decide

/-- X3. -/
theorem test_request_stop :
    (got (cycle 0 (requestStop State.reset))).map (·.flow) = some (some .interrupt) := by decide

/-- X8. -/
theorem test_load :
    (got (load [0x60, 0x05] { withV [(0, 8)] with dt := 5, sp := 2, mem := [(5, 1)], trap := true })).map
      (fun t => (t.mem, t.getV 0, t.dt, t.sp, t.trap)) = some ([(0x200, 0x60), (0x201, 0x05)], 8, 5, 0, false) := by decide

/-- X10. -/
theorem test_set_key :
    (setKey 16 true (setKey 3 true State.reset)).keys = 0x0008 := by decide

/-- X11. -/
theorem test_dump :
    (dumpDisplay { State.reset with disp := Display.blank.setCell 0 0 true }).take 66 =
      '#' :: (List.replicate 63 '.' ++ ['\n', '.']) := by decide +kernel

/-! ### Fetch and the host's word -/

/-- CF17, 40_codec vectors: the fetch at 4094 succeeds, at 4095 faults. -/
theorem test_fetch_edge :
    State.fetch { State.reset with pc := 4094 } = .ok (0, 0) ∧ State.fetch { State.reset with pc := 4095 } = .error (.fetchOutOfRange 4095) := ⟨rfl, rfl⟩

/-- The step after reset with a word placed runs that word (A1). -/
theorem test_withFetchWord :
    (got (step (State.reset.withFetchWord 16 0x6AFF))).map (fun t => (t.getV 10, t.pc)) = some (0xFF, 0x202) := by decide

/-- A word of zero bytes leaves the memory in its canonical form. -/
theorem test_withFetchWord_zero :
    (State.reset.withFetchWord 16 0).mem = [] ∧ (State.reset.withFetchWord 16 0x00E0).mem = [(0x201, 0xE0)] := by decide

/-! ### Witnesses: hypotheses met, one for each clause, at the boundaries -/

theorem witness_CodecExtractorsFollowTheirFormulas :
    (0 < ([0x8A] : List Byte).length ∧ opX [0x8A] 0 = some 10) ∧ 0 + 1 < ([0x8A, 0xB4] : List Byte).length := by decide

theorem witness_CodecFaultsExactlyBeyondTheBuffer :
    codecAt opX [0x8A] 1 = .error (.codecWindow 1) ∧ codecAt opY [0x8A] 0 = .error (.codecWindow 0) ∧ codecAt opNnn [0x8A, 0xB4] 0 = .ok 0xAB4 := ⟨rfl, rfl, rfl⟩

theorem witness_InstructionIsStoredHighByteFirst :
    (at_ 4094 0x60 0x05).trap = false ∧ (at_ 4094 0x60 0x05).pc.toNat + 1 ≤ 4095 ∧ (at_ 4094 0x60 0x05).wordAtPc = 0x6005 := ⟨rfl, by decide, by decide⟩

theorem witness_DecodeOfEncodeIsTheInstruction :
    (Instr.unimplementedFallback 0xF165).wellFormed = true ∧ (Instr.drwVxVyN 15 15 15).wellFormed = true := by decide

theorem witness_EncodeOfDecodeIsTheCanonicalWord :
    encodeWord (decodeWord 0x0AE0) = 0x00E0 ∧ encodeWord (decodeWord 0x0FEE) = 0x00EE ∧ encodeWord (decodeWord 0x512F) = 0x5120 ∧ encodeWord (decodeWord 0x812F) = 0x812F := by decide

theorem witness_DecoderPicksTheSelectedRow :
    (decodeWord 0x812E).implemented = true ∧ (decodeWord 0x812F).implemented = false := by decide

theorem witness_UnimplementedWordsAreTheListedSpace :
    ([0x00E1, 0x8128, 0x9120, 0xB200, 0xE19E, 0xF10A] : List Word).all (fun w => !(decodeWord w).implemented) = true ∧ (decodeWord 0xF107).implemented = true := by decide

theorem witness_StepRunsTheDecodedInstruction :
    (at_ 4094 0x00 0xE0).trap = false ∧ (at_ 4094 0x00 0xE0).pc.toNat + 1 ≤ 4095 ∧
      decode [(at_ 4094 0x00 0xE0).ram 4094, (at_ 4094 0x00 0xE0).ram 4095] = .ok (.cls, []) := ⟨rfl, by decide, rfl⟩

theorem witness_TicksAtOnceAreSingleTicks :
    ({ State.reset with st := 9, buzzer := true } : State).buzzer = decide (({ State.reset with st := 9, buzzer := true } : State).st ≠ 0) := by decide

theorem witness_TrapCheckEndsTheCycle :
    (requestStop State.reset).trap = true ∧ (requestStop State.reset).error = none ∧
      (setFatal "m" State.reset).trap = true ∧ (setFatal "m" State.reset).error = some "m" := by decide

/-- Every cause, each at the first value that faults; the sprite also at the last that does not. -/
theorem witness_StepFaultsExactlyForTheListedCauses :
    faulted (step { State.reset with pc := 4095 }) = some (.fetchOutOfRange 4095) ∧
    faulted (step { at_ 0x200 0xD0 0x11 with i := 0xFFF }) = none ∧
    faulted (step { at_ 0x200 0xD0 0x12 with i := 0xFFF }) = some (.spriteOutOfRange 4096) ∧
    faulted (step { at_ 0x200 0x22 0x00 with sp := 15 }) = some .stackOverflow ∧
    faulted (step { at_ 0x200 0x00 0xEE with sp := 0 }) = some .stackUnderflow ∧
    faulted (step { at_ 0x200 0x00 0xEE with sp := 16 }) = some (.stackSlotOutOfRange 16) := by decide +kernel

theorem witness_FlowOfEveryCycle :
    (∃ t, step (at_ 0x200 0xD0 0x10) = .next t ∧ t.flow = some .draw) ∧
    (∃ t, step (requestStop State.reset) = .next t ∧ t.flow = some .interrupt) ∧
    (∃ t, step (setFatal "m" State.reset) = .next t ∧ t.flow = some (.error "m")) ∧
    (∃ t, step State.reset = .next t ∧ t.flow = some (.error Config.errorMessage)) ∧
    (∃ t, step (at_ 0x200 0x60 0) = .next t ∧ t.flow = none) ∧
    ∃ t, step { at_ 0x200 0x12 0 with jumpCount := Config.jumpGuardThreshold } = .next t ∧ t.flow = some .jump := by
  refine ⟨⟨_, rfl, rfl⟩, ⟨_, rfl, rfl⟩, ⟨_, rfl, rfl⟩, ⟨_, rfl, rfl⟩, ⟨_, rfl, rfl⟩, ⟨_, rfl, ?_⟩⟩
  exact congrArg State.flow (if_pos (Nat.lt_succ_self Config.jumpGuardThreshold))

theorem witness_TrapIsStickyAndSetOnlyByUnimplementedWords :
    (∃ t, step State.reset = .next t ∧ State.reset.nextInstr.implemented = false) ∧
    (∃ t, step (at_ 0x200 0x60 0) = .next t ∧ (at_ 0x200 0x60 0).nextInstr.implemented = true) ∧
    (requestStop State.reset).trap = true := ⟨⟨_, rfl, rfl⟩, ⟨_, rfl, rfl⟩, rfl⟩

theorem witness_StepKeepsTheInvariant :
    State.reset.Inv ∧ ∃ t, step State.reset = .next t := by
  refine ⟨⟨by decide, rfl, by decide, by decide, by decide, rfl, Nat.zero_le _, by decide, rfl⟩, _, rfl⟩

theorem witness_InstructionsChangeOnlyWhatTheyWrite :
    (∃ t, exec (.drwVxVyN 1 2 0) State.reset = .next t) ∧ regVF ∈ registersWritten (.drwVxVyN 1 2 0) ∧
      regVF ∉ registersWritten (.orVxVy 1 2) ∧ Part.ram ∉ partsWritten (.call 0) := ⟨⟨_, rfl⟩, by decide, by decide, by decide⟩

theorem witness_EveryInstructionButJpEndsTheJumpRun :
    (∃ t, exec .cls State.reset = .next t) ∧ Instr.cls.implemented = true ∧
      (∃ t, exec (.unimplementedGroup9 0) State.reset = .next t) ∧ (Instr.unimplementedGroup9 0).implemented = false := ⟨⟨_, rfl⟩, rfl, ⟨_, rfl⟩, rfl⟩

theorem witness_NoStepWritesRam :
    ∃ t, step (at_ 0x200 0x60 0) = .next t := ⟨_, rfl⟩

/-- Sums of exactly 255 and 256. -/
theorem witness_AddSetsCarry :
    after 0x8014 (withV [(0, 254), (1, 1)]) (alu 0) = some (255, 0, 0x202) ∧ after 0x8014 (withV [(0, 255), (1, 1)]) (alu 0) = some (0, 1, 0x202) ∧ (0 : Reg) ≠ regVF := by decide

/-- A20, and one less. -/
theorem witness_SubtractionsSetNotBorrow :
    after 0x8015 (withV [(0, 7), (1, 7)]) (alu 0) = some (0, 1, 0x202) ∧ after 0x8015 (withV [(0, 7), (1, 8)]) (alu 0) = some (255, 0, 0x202) ∧ (0 : Reg) ≠ regVF := by decide

theorem witness_ShiftsCaptureTheBitShiftedOut :
    (14 : Reg) ≠ regVF ∧ (15 : Reg) = regVF := by decide

theorem witness_RandomByteIsMasked :
    (0x0F : Byte).getLsbD 4 = false := by decide

theorem witness_JumpRunYieldsAtMultiplesOfTheThreshold :
    State.reset.jumpCount = 0 := by decide

theorem witness_CallPushesItsOwnAddress :
    ({ State.reset with sp := 14 } : State).sp.toNat + 1 ≤ Config.stackDepth - 1 := by decide

theorem witness_ReturnPopsTheSlotSpNames :
    ({ State.reset with sp := 1 } : State).sp.toNat = (1 : Fin Config.stackDepth).val ∧
      ({ State.reset with sp := 15 } : State).sp.toNat = (15 : Fin Config.stackDepth).val ∧ (1 : Fin Config.stackDepth).val ≠ 0 := by decide

theorem witness_StackFaultsAtBothEnds :
    State.reset.sp = 0 ∧ ({ State.reset with sp := 15 } : State).sp.toNat + 1 > Config.stackDepth - 1 := by decide

/-- The subroutine has called in its turn: a stale slot above `SP` differs. -/
theorem witness_ReturnComesBackToTheCall :
    State.reset.sp.toNat + 1 ≤ Config.stackDepth - 1 ∧
    ∃ t, exec (.call 0x300) State.reset = .next t ∧
      ∃ t' : State, t'.sp = t.sp ∧ t'.stack ≠ t.stack ∧ ∀ k, k.val = t.sp.toNat → t'.stack.get k = t.stack.get k := by
  refine ⟨by decide, _, rfl, ?_⟩
  refine ⟨{ State.reset with sp := 1, stack := (CallStack.zero.set 1 0x200).set 2 0x304 }, rfl, ?_, ?_⟩ <;> decide

theorem witness_DrawReportsCollisionAndYields :
    ((0 : Nibble).toNat = 0 ∧ ∃ t, exec (.drwVxVyN 0 0 0) { State.reset with i := 0xFFF } = .next t) ∧
      ({ State.reset with i := 0xFFF } : State).i.toNat + (1 : Nibble).toNat - 1 ≤ 4095 := ⟨⟨rfl, _, rfl⟩, by decide⟩

theorem witness_DrawInvertsExactlyTheCoveredCells :
    (∃ t, exec (.drwVxVyN 0 1 1) (sprite 0x80 0 []) = .next t) ∧ (sprite 0x80 0 []).spriteCovers 0 1 1 0 0 ∧
      ¬ (sprite 0x80 0 []).spriteCovers 0 1 0 0 0 := ⟨⟨_, rfl⟩, ⟨0, 0, by decide⟩, fun ⟨_, _, h, _⟩ => Nat.not_lt_zero _ h⟩

theorem witness_DrawFaultsBeyondRam :
    0 < (2 : Nibble).toNat ∧ 4095 < ({ State.reset with i := 0xFFF } : State).i.toNat + (2 : Nibble).toNat - 1 := by decide

/-- The last sprite of 15 rows that is in RAM; and no row. -/
theorem witness_DrawTwiceRestoresTheDisplay :
    ((0 : Reg) ≠ regVF ∧ (14 : Reg) ≠ regVF ∧ ({ State.reset with i := 0xFF1 } : State).i.toNat + (15 : Nibble).toNat - 1 ≤ 4095) ∧
    ((0 : Nibble).toNat = 0 ∧ ∃ t, exec (.drwVxVyN 0 1 0) { State.reset with i := 0xFFF } = .next t ∧
      ∃ u, exec (.drwVxVyN 0 1 0) t = .next u) := ⟨by decide, rfl, _, rfl, _, rfl⟩

/-- The form `x = 15`: `VF` put back between the draws, on a clear display. -/
theorem witness_DrawTwiceRestoresTheDisplay_vf :
    ∃ t, exec (.drwVxVyN 15 0 1) (sprite 0x80 0 [(15, 3)]) = .next t ∧ t.getV 15 ≠ 3 ∧
      ∃ t' : State, t' = t.setV 15 3 ∧ t'.disp = t.disp ∧ t'.i = (sprite 0x80 0 [(15, 3)]).i ∧
        t'.getV 15 = (sprite 0x80 0 [(15, 3)]).getV 15 ∧ t'.getV 0 = (sprite 0x80 0 [(15, 3)]).getV 0 ∧
        (∀ row, row < 1 → t'.ram (0x300 + row) = (sprite 0x80 0 [(15, 3)]).ram (0x300 + row)) ∧
        ∀ r c, (sprite 0x80 0 [(15, 3)]).disp.cell r c = false := ⟨_, rfl, by decide +kernel, _, rfl, rfl, rfl, by decide +kernel, by decide +kernel, fun _ _ => rfl, fun r c => Display.cell_blank r c⟩

theorem witness_SecondDrawCollidesIffTheSpriteHasABit :
    (0 : Reg) ≠ regVF ∧ ∃ t, exec (.drwVxVyN 0 0 1) (sprite 0x80 0 []) = .next t ∧ ∃ u, exec (.drwVxVyN 0 0 1) t = .next u := ⟨by decide, _, rfl, _, rfl⟩

theorem witness_UnimplementedWordsTrapPrecisely :
    ([.unimplementedGroup9 0, .unimplementedGroupB 0, .unimplementedGroupE 0, .unimplementedFallback 0] : List Instr).all (fun i => !i.implemented) = true := by decide

/-- X6. -/
theorem witness_LoadLaysOutTheProgram :
    (List.replicate 3584 (0 : Byte)).length ≤ Config.progCapacity ∧ 0 < (List.replicate 3584 (0 : Byte)).length := by
  rw [List.length_replicate]
  decide

/-- X6, X7. -/
theorem witness_LargeProgramIsRefused :
    (List.replicate 3585 (0 : Byte)).length > Config.ramSize - Config.progBase ∧ (List.replicate 3584 (0 : Byte)).length ≤ Config.ramSize - Config.progBase := by
  rw [List.length_replicate, List.length_replicate]
  decide

theorem witness_TransactionsKeepTheInvariant :
    State.reset.Inv ∧ (∃ t, load [0x12, 0x00] State.reset = .next t) ∧
    (∃ f t, resume 1 State.reset = .yielded f t) ∧ (∃ t, resume 1 (at_ 0x200 0x60 0) = .running t) ∧
    (∃ t, execute 1 (requestStop State.reset) = .interrupted t) ∧ (∃ msg t, execute 1 State.reset = .runtime msg t) ∧
    ∃ t, execute 1 (at_ 0x200 0x60 0) = .running t := ⟨witness_StepKeepsTheInvariant.1, ⟨_, rfl⟩, ⟨_, _, rfl⟩, ⟨_, rfl⟩, ⟨_, rfl⟩, ⟨_, _, rfl⟩, _, rfl⟩

theorem witness_KeysAreSetOneByOne :
    (setKey 15 true State.reset).keys = 0x8000 ∧ isKeyPressed 15 (setKey 15 true State.reset) = true ∧ isKeyPressed 16 (setKey 16 true State.reset) = false := by decide

theorem witness_HostStopsAreSeenAtTheNextCycle :
    State.reset.error = none := rfl

theorem witness_ExecuteReentersTransientFlows :
    (∃ t, resume 1 (at_ 0x200 0xD0 0x10) = .yielded .draw t) ∧
      ∃ t, resume 1 { at_ 0x200 0x12 0 with jumpCount := Config.jumpGuardThreshold } = .yielded .jump t := by
  refine ⟨⟨_, rfl⟩, ?_⟩
  have h : step { at_ 0x200 0x12 0 with jumpCount := Config.jumpGuardThreshold } = _ :=
    congrArg Host.Outcome.next (if_pos (Nat.lt_succ_self Config.jumpGuardThreshold))
  exact ⟨_, by rw [resume, h]⟩

theorem witness_ExecuteEndsOnlyTrapped :
    (∃ t, execute 1 (requestStop State.reset) = .interrupted t) ∧ ∃ t, execute 1 State.reset = .runtime Config.errorMessage t := ⟨⟨_, rfl⟩, _, rfl⟩

theorem witness_ResumeAfterAStopRepeatsIt :
    (∃ t, resume 1 (requestStop State.reset) = .yielded .interrupt t) ∧ ∃ t, resume 1 State.reset = .yielded (.error Config.errorMessage) t := ⟨⟨_, rfl⟩, _, rfl⟩

theorem witness_DelayTimerIsWrittenReadAndTickedAsStated :
    (∀ x, Instr.ldVxDt 3 ≠ .ldDtVx x) ∧ (∃ t, exec (.ldVxDt 3) State.reset = .next t) ∧ (∀ x, Instr.ldDtVx 3 ≠ .ldVxDt x) ∧ State.reset.tick.dt = 0 := ⟨by decide, ⟨_, rfl⟩, by decide, rfl⟩

end Sys2Proof.Tests
end

section
/-!
SUPPORT. What is said of every next state an outcome can answer, and the states a step can end in.
-/

namespace Sys2Proof.Machine

/-- Every next state the outcome answers has the property; a fault and a refusal answer none. -/
def AllNext (P : State → Prop) : Outcome State Fault Refusal → Prop
  | .next t => P t
  | .fault _ | .refused _ => True

theorem AllNext.of_next {P : State → Prop} {o : Outcome State Fault Refusal} {t : State}
    (h : AllNext P o) (ho : o = .next t) : P t := by
  subst ho; exact h

/-- After an operation that may fault, only its results matter. -/
theorem allNext_andThen {P : State → Prop} {α : Type} {r : Except Fault α}
    {k : α → Outcome State Fault Refusal} (h : ∀ a, r = .ok a → AllNext P (k a)) : AllNext P (andThen r k) := by
  cases r with
  | ok a => exact h a rfl
  | error f => trivial

/-- All `DRW` can answer: the fault of its range check, or the drawn state. -/
theorem allNext_execDrwVxVyN {P : State → Prop} {x y : Reg} {n : Nibble} {s : State}
    (h : P ((({ s with disp := (s.blit x y n.toNat).1 }).setVF
      (collisionFlag (s.blit x y n.toNat).2)).advance.yield .draw)) : AllNext P (execDrwVxVyN x y n s) := by
  rcases execDrwVxVyN_eq x y n s with ⟨_, e⟩ | ⟨_, _, e⟩
  · rw [e]; exact h
  · rw [e]; trivial

/-- All a step that completes can do: the trap check's report, or the instruction at `PC`. -/
theorem step_next_cases {s t : State} (h : step s = .next t) :
    (s.trap = true ∧ t = s.reportTrap) ∨
    (s.trap = false ∧ s.pc.toNat ≤ 4094 ∧
      exec s.nextInstr (s.beginCycle (Config.freeTicks s.ticksTaken)) = .next t) := by
  rw [step_eq_cycle] at h
  rcases cycle_cases (Config.freeTicks s.ticksTaken) s with ⟨ht, e⟩ | ⟨_, _, e⟩ | ⟨ht, hpc, e⟩
  · exact .inl ⟨ht, (Host.Outcome.next.inj (e.symm.trans h)).symm⟩
  · exact nomatch e.symm.trans h
  · exact .inr ⟨ht, hpc, e.symm.trans h⟩

end Sys2Proof.Machine
end

section
/-!
SUPPORT. The invariant (10_state R22, R25, R30, R32, R40, R133, R142): kept by each named update, then by each
instruction, then by a step.
-/

namespace Sys2Proof.Machine

/-! ### Updates of fields the invariant does not speak of -/

theorem State.Inv.setV {s : State} (h : s.Inv) (r : Reg) (b : Byte) : (s.setV r b).Inv := { h with }
theorem State.Inv.setVF {s : State} (h : s.Inv) (b : Byte) : (s.setVF b).Inv := h.setV regVF b
theorem State.Inv.setDt {s : State} (h : s.Inv) (b : Byte) : (s.setDt b).Inv := { h with }
theorem State.Inv.drawByte {s : State} (h : s.Inv) : s.drawByte.2.Inv := { h with }
theorem State.Inv.withI {s : State} (h : s.Inv) (i : Addr) : ({ s with i := i } : State).Inv := { h with }
theorem State.Inv.withDisp {s : State} (h : s.Inv) (d : Display) : ({ s with disp := d } : State).Inv := { h with }

/-! ### `PC` and the loop guard -/

theorem toNat_add_two_le {pc : Word} (h : pc.toNat ≤ 4094) : (pc + 2).toNat ≤ 4098 := by
  rw [BitVec.toNat_add]; change (pc.toNat + 2) % 65536 ≤ 4098; omega

theorem toNat_add_four_le {pc : Word} (h : pc.toNat ≤ 4094) : (pc + 4).toNat ≤ 4098 := by
  rw [BitVec.toNat_add]; change (pc.toNat + 4) % 65536 ≤ 4098; omega

theorem toNat_addrToPc (nnn : Addr) : (addrToPc nnn).toNat = nnn.toNat := by
  unfold addrToPc
  rw [BitVec.toNat_setWidth_of_le (by decide)]

theorem toNat_addrToPc_le (nnn : Addr) : (addrToPc nnn).toNat ≤ 4098 := by
  rw [toNat_addrToPc]
  have := nnn.isLt
  omega

theorem retOffset_le : Config.retOffset ≤ 2 := by
  unfold Config.retOffset
  split <;> decide

/-- A return lands at most two bytes above a stacked address. -/
theorem toNat_add_retOffset_le {a : Word} (h : a.toNat ≤ 4094) :
    (a + BitVec.ofNat 16 Config.retOffset).toNat ≤ 4098 := by
  have := retOffset_le
  rw [BitVec.toNat_add, BitVec.toNat_ofNat]
  omega

theorem State.Inv.goTo {s : State} (h : s.Inv) {a : Word} (ha : a.toNat ≤ 4098) : (s.goTo a).Inv :=
  { h with pc_bound := ha, guard_bound := Nat.zero_le _ }

theorem State.Inv.advance {s : State} (h : s.Inv) (hpc : s.pc.toNat ≤ 4094) : s.advance.Inv :=
  { h with pc_bound := toNat_add_two_le hpc, guard_bound := Nat.zero_le _ }

theorem State.Inv.skipIf {s : State} (h : s.Inv) (hpc : s.pc.toNat ≤ 4094) (taken : Bool) : (s.skipIf taken).Inv where
  __ := h
  pc_bound := by
    cases taken
    · exact toNat_add_two_le hpc
    · exact toNat_add_four_le hpc
  guard_bound := Nat.zero_le _

theorem State.Inv.yield {s : State} (h : s.Inv) {f : Flow} (hf : f ≠ .delay) : (s.yield f).Inv :=
  { h with no_delay := fun e => hf (Option.some.inj e) }

/-- The count goes up only while it stays within the threshold (R142). -/
theorem State.Inv.jumpGuarded {s : State} (h : s.Inv) {a : Word} (ha : a.toNat ≤ 4098) : (s.jumpGuarded a).Inv := by
  by_cases hc : s.jumpCount + 1 ≤ Config.jumpGuardThreshold
  · rw [State.jumpGuarded_below s a hc]
    exact { h with pc_bound := ha, guard_bound := hc }
  · rw [State.jumpGuarded_above s a (Nat.lt_of_not_le hc)]
    exact ({ h with pc_bound := ha, guard_bound := Nat.zero_le _ } :
      ({ s with pc := a, jumpCount := 0 } : State).Inv).yield (by decide)

/-! ### The stack -/

/-- A push writes a slot above slot 0 (R25, R143). -/
theorem State.Inv.push {s t : State} (h : s.Inv) {a : Word} (ha : a.toNat ≤ 4094) (hp : s.push a = .ok t) :
    t.Inv := by
  rcases State.push_eq s a with ⟨hs, e⟩ | ⟨_, e⟩
  · obtain rfl := Except.ok.inj (e.symm.trans hp)
    refine { h with sp_slot := ?_, slot_bound := fun k => ?_, slot_zero := ?_ }
    · show (s.sp + 1).toNat ≤ Config.stackDepth - 1
      rw [BitVec.toNat_add]
      exact (Nat.mod_le _ _).trans (Nat.le_sub_one_of_lt hs)
    · show ((s.stack.set (s.sp.toNat + 1) a hs)[k.val]).toNat ≤ 4094
      rw [Vector.getElem_set]
      split
      · exact ha
      · exact h.slot_bound k
    · show (s.stack.set (s.sp.toNat + 1) a hs)[0] = 0
      rw [Vector.getElem_set_ne _ _ (Nat.succ_ne_zero _)]
      exact h.slot_zero
  · exact nomatch e.symm.trans hp

/-- A pop answers a stacked address and moves `SP` alone. -/
theorem State.Inv.pop {s t : State} (h : s.Inv) {a : Word} (hp : s.pop = .ok (a, t)) : a.toNat ≤ 4094 ∧ t.Inv := by
  rcases State.pop_eq s with ⟨_, e⟩ | ⟨h0, hs, e⟩ | ⟨_, _, e⟩
  · exact nomatch e.symm.trans hp
  · obtain ⟨rfl, rfl⟩ := Prod.mk.inj (Except.ok.inj (e.symm.trans hp))
    refine ⟨h.slot_bound ⟨s.sp.toNat, hs⟩, { h with sp_slot := ?_ }⟩
    show (s.sp - 1).toNat ≤ Config.stackDepth - 1
    have hsp := h.sp_slot
    have hne : s.sp.toNat ≠ 0 := fun e0 => h0 (BitVec.eq_of_toNat_eq e0)
    rw [BitVec.toNat_sub_of_le (show 1 ≤ s.sp from Nat.one_le_iff_ne_zero.mpr hne)]
    exact (Nat.sub_le _ _).trans hsp
  · exact nomatch e.symm.trans hp

/-! ### Timers and the trap -/

theorem State.Inv.setSt {s : State} (h : s.Inv) (b : Byte) : (s.setSt b).Inv := { h with buzzer_st := rfl }

theorem State.Inv.beginCycle {s : State} (h : s.Inv) (ticks : Nat) : (s.beginCycle ticks).Inv :=
  { (h.setDt (countDown s.dt ticks)).setSt (countDown s.st ticks) with no_delay := nofun }

theorem State.Inv.fatal {s : State} (h : s.Inv) (msg : String) : (s.fatal msg).Inv :=
  { h with error_trap := fun _ => rfl }

theorem State.Inv.unsupportedOpcode {s : State} (h : s.Inv) : s.unsupportedOpcode.Inv :=
  (h.fatal Config.errorMessage).yield nofun

theorem trapFlow_ne_delay (e : Option String) : trapFlow e ≠ .delay := by
  cases e <;> nofun

theorem State.Inv.reportTrap {s : State} (h : s.Inv) : s.reportTrap.Inv := h.yield (trapFlow_ne_delay s.error)

/-! ### Instructions and steps -/

/-- Every instruction executed at an address a word can be fetched from keeps the invariant. -/
theorem exec_keeps_inv {s : State} (h : s.Inv) (hpc : s.pc.toNat ≤ 4094) (i : Instr) :
    AllNext State.Inv (exec i s) := by
  cases i with
  | ret => exact allNext_andThen fun _ hp => (h.pop hp).2.goTo (toNat_add_retOffset_le (h.pop hp).1)
  | call nnn => exact allNext_andThen fun _ hp => (h.push hpc hp).goTo (toNat_addrToPc_le nnn)
  | jp nnn => exact h.jumpGuarded (toNat_addrToPc_le nnn)
  | seVxNn | sneVxNn | seVxVy => exact h.skipIf hpc _
  | ldVxNn | addVxNn | ldVxVy | orVxVy | andVxVy | xorVxVy | ldVxDt => exact (h.setV _ _).advance hpc
  | addVxVy | subVxVy | subnVxVy => exact ((h.setV _ _).setVF _).advance hpc
  | shrVxVy | shlVxVy => exact ((h.setVF _).setV _ _).advance hpc
  | ldINnn nnn => exact (h.withI nnn).advance hpc
  | rndVxNn => exact (h.drawByte.setV _ _).advance hpc
  | cls => exact (h.withDisp _).advance hpc
  | drwVxVyN => exact allNext_execDrwVxVyN ((((h.withDisp _).setVF _).advance hpc).yield nofun)
  | ldDtVx => exact (h.setDt _).advance hpc
  | ldStVx => exact (h.setSt _).advance hpc
  | unimplementedGroup9 | unimplementedGroupB | unimplementedGroupE | unimplementedFallback =>
    exact h.unsupportedOpcode

/-- Settles O18: a step is the trap check's report, or an instruction executed at an address below 4095. -/
theorem stepKeepsTheInvariant : Obligations.StepKeepsTheInvariant := by
  intro s t h hst
  rcases step_next_cases hst with ⟨_, rfl⟩ | ⟨_, hpc, he⟩
  · exact h.reportTrap
  · exact (exec_keeps_inv (h.beginCycle _) hpc _).of_next he

theorem State.reset_inv : State.reset.Inv where
  sp_slot := by decide
  buzzer_st := rfl
  error_trap := by decide
  pc_bound := by decide
  slot_bound := by decide
  slot_zero := rfl
  guard_bound := Nat.zero_le _
  no_delay := by decide
  mem_wf := rfl

/-- Settles O19. -/
theorem resetMeetsTheInvariant : Obligations.ResetMeetsTheInvariant := State.reset_inv

end Sys2Proof.Machine
end

section
/-!
SUPPORT. Frames: which registers and which parts each named update may change (10_state R36, R37; 20_memory R52),
composed along an instruction's updates.
-/

namespace Sys2Proof.Machine

/-- Nothing but the listed registers and parts, `PC` and the loop guard changed. -/
def Frame (regs : List Reg) (parts : List Part) (s t : State) : Prop := SameV regs s t ∧ SameBut parts s t

theorem Part.same.trans {p : Part} {s t u : State} (h : p.same s t) (h' : p.same t u) : p.same s u := by
  cases p with
  | callStack | soundTimer | trapState => exact ⟨h'.1.trans h.1, h'.2.trans h.2⟩
  | ram => exact fun a => (h' a).trans (h a)
  | display => exact fun r c => (h' r c).trans (h r c)
  | addressRegister | delayTimer | keys | flow | tickIndex | drawIndex => exact Eq.trans h' h

/-- Two updates change at most what each of them changes. -/
theorem Frame.trans {regs regs' : List Reg} {parts parts' : List Part} {s t u : State}
    (h : Frame regs parts s t) (h' : Frame regs' parts' t u) : Frame (regs ++ regs') (parts ++ parts') s u := by
  obtain ⟨hv, hp⟩ := h
  obtain ⟨hv', hp'⟩ := h'
  refine ⟨fun r hr => ?_, fun p hm => ?_⟩
  · rw [List.mem_append, not_or] at hr
    exact (hv' r hr.2).trans (hv r hr.1)
  · rw [List.mem_append, not_or] at hm
    exact (hp p hm.1).trans (hp' p hm.2)

/-- A longer list allows no less. -/
theorem Frame.mono {regs regs' : List Reg} {parts parts' : List Part} {s t : State} (h : Frame regs parts s t)
    (hr : regs ⊆ regs') (hp : parts ⊆ parts') : Frame regs' parts' s t :=
  ⟨fun r hm => h.1 r fun m => hm (hr m), fun p hm => h.2 p fun m => hm (hp m)⟩

/-! ### Updates of registers, `PC` and the loop guard: no part changes -/

theorem Frame.ofPcJumpCount (s : State) (pc : Word) (n : Nat) : Frame [] [] s { s with pc := pc, jumpCount := n } :=
  ⟨fun _ _ => rfl, fun p _ => by cases p <;> simp [Part.same, State.ram]⟩

theorem Frame.advance (s : State) : Frame [] [] s s.advance := .ofPcJumpCount s _ _
theorem Frame.skipIf (s : State) (taken : Bool) : Frame [] [] s (s.skipIf taken) := .ofPcJumpCount s _ _
theorem Frame.goTo (s : State) (a : Word) : Frame [] [] s (s.goTo a) := .ofPcJumpCount s _ _

theorem Frame.setV (s : State) (r : Reg) (b : Byte) : Frame [r] [] s (s.setV r b) :=
  ⟨fun _ hr => State.getV_setV_other s (List.ne_of_not_mem_cons hr) b,
    fun p _ => by cases p <;> simp [Part.same, State.ram]⟩

/-! ### Updates of one part -/

theorem Frame.setSt (s : State) (b : Byte) : Frame [] [.soundTimer] s (s.setSt b) :=
  ⟨fun _ _ => rfl, fun p hp => by cases p <;> simp_all [Part.same, State.ram]⟩

theorem Frame.setDt (s : State) (b : Byte) : Frame [] [.delayTimer] s (s.setDt b) :=
  ⟨fun _ _ => rfl, fun p hp => by cases p <;> simp_all [Part.same, State.ram]⟩

theorem Frame.fatal (s : State) (msg : String) : Frame [] [.trapState] s (s.fatal msg) :=
  ⟨fun _ _ => rfl, fun p hp => by cases p <;> simp_all [Part.same, State.ram]⟩

theorem Frame.drawByte (s : State) : Frame [] [.drawIndex] s s.drawByte.2 :=
  ⟨fun _ _ => rfl, fun p hp => by cases p <;> simp_all [Part.same, State.ram]⟩

theorem Frame.withI (s : State) (i : Addr) : Frame [] [.addressRegister] s { s with i := i } :=
  ⟨fun _ _ => rfl, fun p hp => by cases p <;> simp_all [Part.same, State.ram]⟩

theorem Frame.withDisp (s : State) (d : Display) : Frame [] [.display] s { s with disp := d } :=
  ⟨fun _ _ => rfl, fun p hp => by cases p <;> simp_all [Part.same, State.ram]⟩

theorem Frame.withStack (s : State) (sp : BitVec 8) (stack : CallStack) :
    Frame [] [.callStack] s { s with sp := sp, stack := stack } :=
  ⟨fun _ _ => rfl, fun p hp => by cases p <;> simp_all [Part.same, State.ram]⟩

theorem Frame.withTicksTaken (s : State) (n : Nat) : Frame [] [.tickIndex] s { s with ticksTaken := n } :=
  ⟨fun _ _ => rfl, fun p hp => by cases p <;> simp_all [Part.same, State.ram]⟩

theorem Frame.withFlow (s : State) (f : Option Flow) : Frame [] [.flow] s { s with flow := f } :=
  ⟨fun _ _ => rfl, fun p hp => by cases p <;> simp_all [Part.same, State.ram]⟩

theorem Frame.yield (s : State) (f : Flow) : Frame [] [.flow] s (s.yield f) := .withFlow s (some f)

/-! ### Compound updates -/

theorem Frame.jumpGuarded (s : State) (a : Word) : Frame [] [.flow] s (s.jumpGuarded a) := by
  by_cases hc : s.jumpCount + 1 ≤ Config.jumpGuardThreshold
  · rw [State.jumpGuarded_below s a hc]
    exact (Frame.ofPcJumpCount s a (s.jumpCount + 1)).mono (List.nil_subset _) (List.nil_subset _)
  · rw [State.jumpGuarded_above s a (Nat.lt_of_not_le hc)]
    exact (Frame.ofPcJumpCount s a 0).trans (.withFlow _ _)

theorem Frame.push {s t : State} {a : Word} (hp : s.push a = .ok t) : Frame [] [.callStack] s t := by
  rcases State.push_eq s a with ⟨_, e⟩ | ⟨_, e⟩
  · obtain rfl := Except.ok.inj (e.symm.trans hp)
    exact .withStack s _ _
  · exact nomatch e.symm.trans hp

theorem Frame.pop {s t : State} {a : Word} (hp : s.pop = .ok (a, t)) : Frame [] [.callStack] s t := by
  rcases State.pop_eq s with ⟨_, e⟩ | ⟨_, _, e⟩ | ⟨_, _, e⟩
  · exact nomatch e.symm.trans hp
  · obtain ⟨-, rfl⟩ := Prod.mk.inj (Except.ok.inj (e.symm.trans hp))
    exact .withStack s _ _
  · exact nomatch e.symm.trans hp

theorem Frame.unsupportedOpcode (s : State) : Frame [] [.trapState, .flow] s s.unsupportedOpcode :=
  (Frame.fatal s _).trans (.yield _ _)

theorem Frame.beginCycle (s : State) (ticks : Nat) :
    Frame [] [.delayTimer, .soundTimer, .flow, .tickIndex] s (s.beginCycle ticks) :=
  (((Frame.setDt s (countDown s.dt ticks)).trans (.setSt _ (countDown s.st ticks))).trans (.withFlow _ none)).trans
    (.withTicksTaken _ (s.ticksTaken + 1))

/-! ### Instructions -/

/-- Every instruction changes at most the registers and parts listed for it. -/
theorem exec_frame (i : Instr) (s : State) :
    AllNext (Frame (registersWritten i) (partsWritten i) s) (exec i s) := by
  cases i with
  | cls => exact (Frame.withDisp s _).trans (.advance _)
  | ret => exact allNext_andThen fun _ hp => (Frame.pop hp).trans (.goTo _ _)
  | call => exact allNext_andThen fun _ hp => (Frame.push hp).trans (.goTo _ _)
  | jp => exact .jumpGuarded s _
  | seVxNn | sneVxNn | seVxVy => exact .skipIf s _
  | ldVxNn x | addVxNn x | ldVxVy x | orVxVy x | andVxVy x | xorVxVy x | ldVxDt x =>
    exact (Frame.setV s x _).trans (.advance _)
  | addVxVy x | subVxVy x | subnVxVy x => exact ((Frame.setV s x _).trans (.setV _ regVF _)).trans (.advance _)
  | shrVxVy x | shlVxVy x =>
    exact (((Frame.setV s regVF _).trans (.setV _ x _)).trans (.advance _)).mono
      (List.Perm.swap x regVF []).subset (List.Subset.refl _)
  | ldINnn => exact (Frame.withI s _).trans (.advance _)
  | rndVxNn x => exact ((Frame.drawByte s).trans (.setV _ x _)).trans (.advance _)
  | drwVxVyN =>
    exact allNext_execDrwVxVyN
      ((((Frame.withDisp s _).trans (.setV _ regVF _)).trans (.advance _)).trans (.yield _ _))
  | ldDtVx => exact (Frame.setDt s _).trans (.advance _)
  | ldStVx => exact (Frame.setSt s _).trans (.advance _)
  | unimplementedGroup9 | unimplementedGroupB | unimplementedGroupE | unimplementedFallback =>
    exact .unsupportedOpcode s

/-- Settles O22: the frames of an instruction's updates, composed. -/
theorem instructionsChangeOnlyWhatTheyWrite : Obligations.InstructionsChangeOnlyWhatTheyWrite :=
  fun i s _ h => (exec_frame i s).of_next h

end Sys2Proof.Machine
end

section
/-!
SUPPORT. The trap (10_state R31, R32; 60_exceptions R226): set by unimplemented words alone, cleared by no cycle.
-/

namespace Sys2Proof.Machine

theorem exec_unimplemented {i : Instr} (h : i.implemented = false) (s : State) :
    exec i s = .next s.unsupportedOpcode := by
  cases i with
  | unimplementedGroup9 | unimplementedGroupB | unimplementedGroupE | unimplementedFallback => rfl
  | _ => exact nomatch h

theorem trapState_notMem_partsWritten {i : Instr} (h : i.implemented = true) : Part.trapState ∉ partsWritten i := by
  cases i with
  | unimplementedGroup9 | unimplementedGroupB | unimplementedGroupE | unimplementedFallback => exact nomatch h
  | _ => simp [partsWritten]

/-- An implemented instruction leaves `trap` and `error` (R31, R32). -/
theorem trap_error_of_exec {i : Instr} {s t : State} (hi : i.implemented = true) (h : exec i s = .next t) :
    t.trap = s.trap ∧ t.error = s.error :=
  ((exec_frame i s).of_next h).2 .trapState (trapState_notMem_partsWritten hi)

/-- Settles O17: with `trap` set a step keeps both; else the instruction decides. -/
theorem trapIsStickyAndSetOnlyByUnimplementedWords : Obligations.TrapIsStickyAndSetOnlyByUnimplementedWords := by
  intro s t h
  rcases step_next_cases h with ⟨ht, rfl⟩ | ⟨ht, _, he⟩
  · simp [ht]
  · cases hi : s.nextInstr.implemented with
    | true =>
      obtain ⟨htrap, herr⟩ := trap_error_of_exec hi he
      simp [ht, htrap, herr]
    | false =>
      obtain rfl := Host.Outcome.next.inj ((exec_unimplemented hi _).symm.trans he)
      simp [ht]

end Sys2Proof.Machine
end

section
/-!
SUPPORT. The countdown of the timers (10_state R28, R29; 41_execution_loop R122): one tick at a time or all at once.
-/

namespace Sys2Proof.Machine

@[simp] theorem countDown_zero (b : Byte) : countDown b 0 = b :=
  BitVec.eq_of_toNat_eq (toNat_countDown b 0)

theorem countDown_countDown (b : Byte) (m n : Nat) : countDown (countDown b m) n = countDown b (m + n) := by
  apply BitVec.eq_of_toNat_eq
  rw [toNat_countDown, toNat_countDown, toNat_countDown, Nat.sub_sub]

/-- The countdown of a single tick, as R28 and R29 write it. -/
theorem countDown_one (b : Byte) : countDown b 1 = if b.toNat > 0 then b - 1 else 0 := by
  apply BitVec.eq_of_toNat_eq
  rw [toNat_countDown]
  split
  · next h => rw [BitVec.toNat_sub_of_le (show 1 ≤ b from h)]; rfl
  · next h => rw [Nat.eq_zero_of_not_pos h]; rfl

theorem State.tick_eq_applyTicks_one (s : State) : s.tick = s.applyTicks 1 := by
  unfold State.tick State.applyTicks
  rw [countDown_one, countDown_one]

/-- The buzzer flag is evaluated anew by each run of ticks, so only the last one counts. -/
theorem State.applyTicks_applyTicks (s : State) (m n : Nat) :
    (s.applyTicks m).applyTicks n = s.applyTicks (m + n) := by
  show (s.setDt (countDown (countDown s.dt m) n)).setSt (countDown (countDown s.st m) n) = s.applyTicks (m + n)
  rw [countDown_countDown, countDown_countDown]
  rfl

/-- No tick changes nothing, where the buzzer flag is as the invariant has it (R30). -/
theorem State.applyTicks_zero {s : State} (h : s.buzzer = decide (s.st ≠ 0)) : s.applyTicks 0 = s := by
  unfold State.applyTicks State.setSt State.setDt
  rw [countDown_zero, countDown_zero, ← h]

/-- Settles O13, by induction on the number of ticks. -/
theorem ticksAtOnceAreSingleTicks : Obligations.TicksAtOnceAreSingleTicks := by
  intro s n h
  induction n with
  | zero => exact State.applyTicks_zero h
  | succ n ih =>
    rw [Function.iterate_succ_apply', ← ih, State.tick_eq_applyTicks_one, State.applyTicks_applyTicks]

/-- `DT` after single ticks needs no premise on the buzzer flag. -/
theorem State.dt_iterate_tick (s : State) (n : Nat) : (State.tick^[n] s).dt = countDown s.dt n := by
  induction n with
  | zero => exact (countDown_zero s.dt).symm
  | succ n ih =>
    rw [Function.iterate_succ_apply', State.tick_eq_applyTicks_one, State.applyTicks_dt, ih, countDown_countDown]

theorem countDown_ne_zero_iff (b : Byte) (n : Nat) : countDown b n ≠ 0 ↔ b.toNat > n := by
  rw [Ne, ← BitVec.toNat_inj, toNat_countDown]
  exact Nat.sub_ne_zero_iff_lt

/-- Settles O12. -/
theorem ticksAreAppliedBeforeTheInstruction : Obligations.TicksAreAppliedBeforeTheInstruction := by
  intro s ticks
  obtain ⟨hv, hp⟩ := Frame.beginCycle s ticks
  exact ⟨toNat_countDown s.dt ticks, toNat_countDown s.st ticks,
    decide_eq_decide.mpr (countDown_ne_zero_iff s.st ticks), rfl, rfl, rfl, rfl, hv, hp⟩

end Sys2Proof.Machine
end

section
/-!
SUPPORT. Noninterference (10_state R28, R29, R30, R33): timers, buzzer flag and keys are read by the timer moves
alone, so that every other instruction commutes with a change of them.
-/

namespace Sys2Proof.Machine

@[simp] theorem mapNext_mapNext (f g : State → State) (o : Outcome State Fault Refusal) :
    mapNext f (mapNext g o) = mapNext (f ∘ g) o := by
  cases o <;> rfl

theorem mapNext_andThen {α : Type} (f : State → State) (r : Except Fault α)
    (k : α → Outcome State Fault Refusal) :
    mapNext f (andThen r k) = andThen r fun a => mapNext f (k a) := by
  cases r <;> rfl

/-- The state with each timer, the buzzer flag and the keys changed by a function of its own. -/
def State.mapAside (fdt fst : Byte → Byte) (fbuzzer : Bool → Bool) (fkeys : BitVec 16 → BitVec 16)
    (s : State) : State :=
  { s with dt := fdt s.dt, st := fst s.st, buzzer := fbuzzer s.buzzer, keys := fkeys s.keys }

section
variable (fdt fst : Byte → Byte) (fbuzzer : Bool → Bool) (fkeys : BitVec 16 → BitVec 16)

theorem execJp_mapAside (nnn : Addr) (s : State) :
    execJp nnn (s.mapAside fdt fst fbuzzer fkeys) = mapNext (State.mapAside fdt fst fbuzzer fkeys) (execJp nnn s) := by
  unfold execJp State.jumpGuarded
  change Host.Outcome.next (if s.jumpCount + 1 > Config.jumpGuardThreshold then _ else _) = _
  split <;> rfl

theorem execRet_mapAside (s : State) :
    execRet (s.mapAside fdt fst fbuzzer fkeys) = mapNext (State.mapAside fdt fst fbuzzer fkeys) (execRet s) := by
  unfold execRet State.pop
  rw [mapNext_andThen]
  change andThen (if s.sp = 0 then _ else if h : s.sp.toNat < Config.stackDepth then _ else _) _ = _
  split
  · rfl
  · split <;> rfl

theorem execCall_mapAside (nnn : Addr) (s : State) :
    execCall nnn (s.mapAside fdt fst fbuzzer fkeys) =
      mapNext (State.mapAside fdt fst fbuzzer fkeys) (execCall nnn s) := by
  unfold execCall State.push
  change andThen (if h : s.sp.toNat + 1 < Config.stackDepth then _ else _) _ = _
  split <;> rfl

theorem execDrwVxVyN_mapAside (x y : Reg) (n : Nibble) (s : State) :
    execDrwVxVyN x y n (s.mapAside fdt fst fbuzzer fkeys) =
      mapNext (State.mapAside fdt fst fbuzzer fkeys) (execDrwVxVyN x y n s) := by
  have hf : (s.mapAside fdt fst fbuzzer fkeys).spriteFault (rowCount n) = s.spriteFault (rowCount n) := rfl
  unfold execDrwVxVyN
  rw [hf]
  cases s.spriteFault (rowCount n) <;> rfl

/-- An instruction is a timer move, or it commutes with any change of timers, buzzer flag and keys. -/
theorem exec_mapAside (i : Instr) (s : State) :
    (∃ x, i = .ldVxDt x ∨ i = .ldDtVx x ∨ i = .ldStVx x) ∨
    exec i (s.mapAside fdt fst fbuzzer fkeys) = mapNext (State.mapAside fdt fst fbuzzer fkeys) (exec i s) := by
  cases i with
  | ldVxDt x => exact .inl ⟨x, .inl rfl⟩
  | ldDtVx x => exact .inl ⟨x, .inr (.inl rfl)⟩
  | ldStVx x => exact .inl ⟨x, .inr (.inr rfl)⟩
  | jp nnn => exact .inr (execJp_mapAside fdt fst fbuzzer fkeys nnn s)
  | ret => exact .inr (execRet_mapAside fdt fst fbuzzer fkeys s)
  | call nnn => exact .inr (execCall_mapAside fdt fst fbuzzer fkeys nnn s)
  | drwVxVyN x y n => exact .inr (execDrwVxVyN_mapAside fdt fst fbuzzer fkeys x y n s)
  | _ => exact .inr rfl

end

/-- Settles O26: `LD ST,Vx` writes both and reads neither; the other timer moves leave them. -/
theorem noInstructionReadsTheSoundTimer : Obligations.NoInstructionReadsTheSoundTimer := by
  intro i s st buzzer
  rcases exec_mapAside id (fun _ => st) (fun _ => buzzer) id i s with ⟨x, rfl | rfl | rfl⟩ | h
  · rfl
  · rfl
  · rfl
  · exact (congrArg (mapNext _) h).trans (mapNext_mapNext _ _ _)

/-- The keys are read by no instruction, the timer moves included (R33). -/
theorem exec_withKeys (i : Instr) (s : State) (keys : BitVec 16) :
    exec i { s with keys := keys } = mapNext (fun t => { t with keys := keys }) (exec i s) := by
  rcases exec_mapAside id id id (fun _ => keys) i s with ⟨x, rfl | rfl | rfl⟩ | h
  · rfl
  · rfl
  · rfl
  · exact h

/-- Settles O25: neither the trap check, nor the ticks, nor the fetch, nor the instruction reads the keys. -/
theorem noStepReadsTheKeys : Obligations.NoStepReadsTheKeys := by
  intro s keys
  simp only [step_eq_cycle, cycle]
  split
  · rfl
  · rw [mapNext_andThen]
    exact congrArg (andThen _) (funext fun p => exec_withKeys _ (s.beginCycle _) keys)

theorem delayTimer_notMem_partsWritten {i : Instr} (h : ∀ x, i ≠ .ldDtVx x) : Part.delayTimer ∉ partsWritten i := by
  cases i with
  | ldDtVx x => exact absurd rfl (h x)
  | _ => simp [partsWritten]

/-- `DT` is written by `LD DT,Vx` alone (R28). -/
theorem dt_of_exec {i : Instr} {s t : State} (hi : ∀ x, i ≠ .ldDtVx x) (h : exec i s = .next t) : t.dt = s.dt :=
  ((exec_frame i s).of_next h).2 .delayTimer (delayTimer_notMem_partsWritten hi)

/-- `DT` is read by `LD Vx,DT` alone (R28); `LD DT,Vx` overwrites it. -/
theorem exec_withDt {i : Instr} (hi : ∀ x, i ≠ .ldVxDt x) (s : State) (dt : Byte) :
    mapNext (fun t => { t with dt := 0 }) (exec i { s with dt := dt }) =
      mapNext (fun t => { t with dt := 0 }) (exec i s) := by
  rcases exec_mapAside (fun _ => dt) id id id i s with ⟨x, rfl | rfl | rfl⟩ | h
  · exact absurd rfl (hi x)
  · rfl
  · rfl
  · exact (congrArg (mapNext _) h).trans (mapNext_mapNext _ _ _)

/-- Settles O59: the frame gives the one writer, the commutation the one reader, the countdown the ticks. -/
theorem delayTimerIsWrittenReadAndTickedAsStated : Obligations.DelayTimerIsWrittenReadAndTickedAsStated := by
  refine ⟨fun x s => ⟨?_, ?_⟩, fun i s t hi h => dt_of_exec hi h, fun i s dt hi => exec_withDt hi s dt,
    fun s => rfl, fun s n => (s.dt_iterate_tick n).symm⟩
  · exact ⟨_, rfl, rfl⟩
  · exact ⟨_, rfl, State.getV_setV_same s x s.dt⟩

end Sys2Proof.Machine
end

section
/-!
SUPPORT. Host transactions and the values after creation.
-/

namespace Sys2Proof.Machine

/-- The state a `resume` returned in or is found running in. -/
def ResumeResult.state? : ResumeResult → Option State
  | .yielded _ s | .running s => some s
  | .faulted _ | .refused _ => none

/-- The state an `execute` returned in or is found running in. -/
def ExecuteResult.state? : ExecuteResult → Option State
  | .interrupted s | .runtime _ s | .running s => some s
  | .faulted _ | .refused _ => none

/-- All a `resume` with budget left can do: it ends after the next step, or goes on from there. -/
theorem resume_succ_cases {k : Nat} {s t : State} (ht : (resume (k + 1) s).state? = some t) :
    ∃ u, step s = .next u ∧ (u = t ∨ (resume k u).state? = some t) := by
  rw [resume] at ht
  split at ht
  · next u hs =>
    refine ⟨u, hs, ?_⟩
    split at ht
    · exact .inr ht
    · exact .inl (Option.some.inj ht)
  · exact nomatch ht
  · exact nomatch ht

/-- All the loop of `execute` with budget left can do: it ends after the next step, or goes on from there. -/
theorem executeLoop_succ_cases {k : Nat} {s t : State} (ht : (executeLoop (k + 1) s).state? = some t) :
    ∃ u, step s = .next u ∧ (u = t ∨ (executeLoop k u).state? = some t) := by
  rw [executeLoop] at ht
  split at ht
  · next u hs =>
    refine ⟨u, hs, ?_⟩
    split at ht
    · exact .inl (Option.some.inj ht)
    · exact .inl (Option.some.inj ht)
    all_goals exact .inr ht
  · exact nomatch ht
  · exact nomatch ht

/-- What every step keeps, `resume` keeps. -/
theorem resume_keeps {P : State → Prop} (hP : ∀ s t, P s → step s = .next t → P t) (k : Nat) {s t : State}
    (h : P s) (ht : (resume k s).state? = some t) : P t := by
  induction k generalizing s with
  | zero => exact Option.some.inj ht ▸ h
  | succ k ih =>
    obtain ⟨u, hs, rfl | hu⟩ := resume_succ_cases ht
    · exact hP s u h hs
    · exact ih (hP s u h hs) hu

/-- What every step keeps, the loop of `execute` keeps. -/
theorem executeLoop_keeps {P : State → Prop} (hP : ∀ s t, P s → step s = .next t → P t) (k : Nat) {s t : State}
    (h : P s) (ht : (executeLoop k s).state? = some t) : P t := by
  induction k generalizing s with
  | zero => exact Option.some.inj ht ▸ h
  | succ k ih =>
    obtain ⟨u, hs, rfl | hu⟩ := executeLoop_succ_cases ht
    · exact hP s u h hs
    · exact ih (hP s u h hs) hu

/-- A load that fits sets the stack and `PC` as at creation, and its bytes lie within RAM. -/
theorem State.Inv.load {s t : State} (h : s.Inv) {bytes : List Byte} (ht : load bytes s = .next t) : t.Inv := by
  rcases load_eq bytes s with ⟨hlen, e⟩ | ⟨_, e⟩
  · obtain rfl := Host.Outcome.next.inj (e.symm.trans ht)
    exact { h with
      sp_slot := State.reset_inv.sp_slot
      error_trap := nofun
      pc_bound := State.reset_inv.pc_bound
      slot_bound := State.reset_inv.slot_bound
      slot_zero := State.reset_inv.slot_zero
      guard_bound := Nat.zero_le _
      mem_wf := Memory.wf_setBytes rfl (Nat.add_le_add_left hlen Config.progBase) }
  · exact nomatch e.symm.trans ht

theorem State.Inv.setKey {s : State} (h : s.Inv) (k : Nat) (pressed : Bool) : (setKey k pressed s).Inv := by
  unfold Machine.setKey
  split
  · exact { h with }
  · exact h

theorem State.Inv.requestStop {s : State} (h : s.Inv) : (requestStop s).Inv := { h with error_trap := fun _ => rfl }

theorem State.Inv.resume {s t : State} (h : s.Inv) (k : Nat) (ht : (resume k s).state? = some t) : t.Inv :=
  resume_keeps stepKeepsTheInvariant k h ht

/-- `execute` starts with the loop guard reset. -/
theorem State.Inv.execute {s t : State} (h : s.Inv) (k : Nat) (ht : (execute k s).state? = some t) : t.Inv :=
  executeLoop_keeps stepKeepsTheInvariant k (s := { s with jumpCount := 0 })
    { h with guard_bound := Nat.zero_le _ } ht

/-- Settles O52, each transaction by its own lemma. -/
theorem transactionsKeepTheInvariant : Obligations.TransactionsKeepTheInvariant := fun _ h =>
  ⟨fun _ _ => h.load, h.setKey, h.requestStop, h.fatal,
    fun k _ _ e => h.resume k (congrArg ResumeResult.state? e),
    fun k _ e => h.resume k (congrArg ResumeResult.state? e),
    fun k _ e => h.execute k (congrArg ExecuteResult.state? e),
    fun k _ _ e => h.execute k (congrArg ExecuteResult.state? e),
    fun k _ e => h.execute k (congrArg ExecuteResult.state? e)⟩

/-- Settles O20. -/
theorem resetValues : Obligations.ResetValues :=
  ⟨by decide, rfl, rfl, rfl, by decide, Memory.get_nil, Display.cell_blank, rfl, rfl, rfl, rfl, rfl, rfl, rfl⟩

end Sys2Proof.Machine
end

section
/-!
SUPPORT. RAM (20_memory R52, R53, R58, R63): how an instruction lies in it, that no step writes it, and how a load
lays it out.
-/

namespace Sys2Proof.Machine

open Codec

/-! ### The word at `PC` (R53, R123, R124) -/

/-- The high half of a word is its first byte (R53). -/
theorem getLsbD_wordOf_high (p : Byte × Byte) (k : Nat) : (wordOf p).getLsbD (8 + k) = p.1.getLsbD k := by
  rw [wordOf_eq, getLsbD_bytes, if_neg (by omega), Nat.add_sub_cancel_left]

/-- The low half of a word is its second byte (R53). -/
theorem getLsbD_wordOf_low (p : Byte × Byte) {k : Nat} (h : k < 8) : (wordOf p).getLsbD k = p.2.getLsbD k := by
  rw [wordOf_eq, getLsbD_bytes, if_pos h]

theorem decodeWord_wordOf (p : Byte × Byte) : decodeWord (wordOf p) = decodePair p.1 p.2 := by
  rw [decodeWord, pairOf_wordOf]

/-- A fetch within RAM gives the two bytes of the word at `PC` (R123). -/
theorem State.fetch_wordAtPc {s : State} (h : s.pc.toNat ≤ 4094) : ∃ p, s.fetch = .ok p ∧ wordOf p = s.wordAtPc := by
  rcases s.fetch_eq with ⟨_, e⟩ | ⟨hlt, _⟩
  · exact ⟨_, e, rfl⟩
  · exact absurd h (Nat.not_le_of_lt hlt)

/-- A cycle that is not trapped executes what the word at `PC` decodes to (R124). -/
theorem cycle_executes_wordAtPc {s : State} (ht : s.trap = false) (h : s.pc.toNat ≤ 4094) (ticks : Nat) :
    cycle ticks s = exec (decodeWord s.wordAtPc) (s.beginCycle ticks) := by
  rw [State.wordAtPc, decodeWord_wordOf]
  rcases cycle_cases ticks s with ⟨ht', _⟩ | ⟨_, hlt, _⟩ | ⟨_, _, e⟩
  · exact nomatch ht.symm.trans ht'
  · exact absurd h (Nat.not_le_of_lt hlt)
  · exact e

/-- Settles O5: the halves of `wordOf`, the fetch and the cycle, and the document's words by computation. -/
theorem instructionIsStoredHighByteFirst : Obligations.InstructionIsStoredHighByteFirst :=
  ⟨fun _ => ⟨fun k _ => getLsbD_wordOf_high _ k, fun _ hk => getLsbD_wordOf_low _ hk,
      fun h => State.fetch_wordAtPc (Nat.le_of_succ_le_succ h),
      fun ht h => cycle_executes_wordAtPc ht (Nat.le_of_succ_le_succ h)⟩,
    rfl, rfl, rfl, rfl⟩

/-! ### No step writes RAM (R52, R63) -/

theorem State.mem_of_push {s t : State} {a : Word} (hp : s.push a = .ok t) : t.mem = s.mem := by
  rcases s.push_eq a with ⟨_, e⟩ | ⟨_, e⟩
  · obtain rfl := Except.ok.inj (e.symm.trans hp)
    rfl
  · exact nomatch e.symm.trans hp

theorem State.mem_of_pop {s t : State} {a : Word} (hp : s.pop = .ok (a, t)) : t.mem = s.mem := by
  rcases s.pop_eq with ⟨_, e⟩ | ⟨_, _, e⟩ | ⟨_, _, e⟩
  · exact nomatch e.symm.trans hp
  · obtain ⟨-, rfl⟩ := Prod.mk.inj (Except.ok.inj (e.symm.trans hp))
    rfl
  · exact nomatch e.symm.trans hp

/-- Every instruction leaves the memory as it is, canonical or not: all but four are updates of other fields. -/
theorem exec_keeps_mem (i : Instr) (s : State) : AllNext (fun t => t.mem = s.mem) (exec i s) := by
  cases i with
  | ret => exact allNext_andThen fun p hp => (p.2.goTo_mem _).trans (State.mem_of_pop hp)
  | call => exact allNext_andThen fun t hp => (t.goTo_mem _).trans (State.mem_of_push hp)
  | jp nnn => exact s.jumpGuarded_mem (addrToPc nnn)
  | drwVxVyN => exact allNext_execDrwVxVyN rfl
  | _ => exact rfl

theorem mem_of_step {s t : State} (h : step s = .next t) : t.mem = s.mem := by
  rcases step_next_cases h with ⟨_, rfl⟩ | ⟨_, _, he⟩
  · exact s.reportTrap_mem
  · exact ((exec_keeps_mem _ _).of_next he).trans (s.beginCycle_mem _)

/-- Settles O24: equal memories are read alike. -/
theorem noStepWritesRam : Obligations.NoStepWritesRam :=
  fun _ _ h => ⟨mem_of_step h, State.ram_of_mem (mem_of_step h)⟩

/-! ### A load (R58, R261) -/

/-- The RAM of a load, byte by byte: the program at `PROG_BASE`, zeros elsewhere (R58). -/
theorem Memory.get_loaded {bytes : List Byte} (hlen : bytes.length ≤ Config.progCapacity) (a : Nat) :
    (Memory.setBytes [] Config.progBase bytes).get a =
      if Config.progBase ≤ a ∧ a < Config.progBase + bytes.length then bytes.getD (a - Config.progBase) 0
      else 0 :=
  Memory.get_setBytes rfl (Nat.add_le_add_left hlen Config.progBase) a

/-- The `k`-th byte of a program is at `PROG_BASE + k`. -/
theorem Memory.get_loaded_inside {bytes : List Byte} (hlen : bytes.length ≤ Config.progCapacity) {k : Nat}
    (h : k < bytes.length) : (Memory.setBytes [] Config.progBase bytes).get (Config.progBase + k) = bytes[k] := by
  rw [Memory.get_loaded hlen, if_pos ⟨Nat.le_add_right _ _, Nat.add_lt_add_left h _⟩, Nat.add_sub_cancel_left,
    List.getD_eq_getElem _ _ h]

/-- Below and above the program every byte is zero. -/
theorem Memory.get_loaded_outside {bytes : List Byte} (hlen : bytes.length ≤ Config.progCapacity) {a : Nat}
    (h : a < Config.progBase ∨ Config.progBase + bytes.length ≤ a) :
    (Memory.setBytes [] Config.progBase bytes).get a = 0 := by
  rw [Memory.get_loaded hlen, if_neg (by omega)]

/-- A load leaves every register, and every part but RAM, stack, display and trap (D32, D34). -/
theorem Frame.load {bytes : List Byte} {s t : State} (ht : load bytes s = .next t) :
    Frame [] [.ram, .callStack, .display, .trapState] s t := by
  rcases load_eq bytes s with ⟨_, e⟩ | ⟨_, e⟩
  · obtain rfl := Host.Outcome.next.inj (e.symm.trans ht)
    exact ⟨fun _ _ => rfl, fun p hp => by cases p <;> simp_all [Part.same]⟩
  · exact nomatch e.symm.trans ht

/-- Settles O50: RAM byte by byte, the zeroed buffers as at creation, the rest by the load's frame. -/
theorem loadLaysOutTheProgram : Obligations.LoadLaysOutTheProgram := by
  intro bytes s hlen
  rcases load_eq bytes s with ⟨_, e⟩ | ⟨hlt, _⟩
  · obtain ⟨hregs, hparts⟩ := Frame.load e
    exact ⟨_, e, fun _ hk => Memory.get_loaded_inside hlen hk, fun _ ha => Memory.get_loaded_outside hlen ha,
      fun k => Vector.getElem_replicate k.isLt, Display.cell_blank, rfl, rfl, rfl, rfl, rfl, hregs, hparts⟩
  · exact absurd hlen (Nat.not_le_of_lt hlt)

end Sys2Proof.Machine
end

section
/-!
SUPPORT. The fields of a word as numbers (30_encoding R71), and how masks and fields go together (R76).
-/

namespace Sys2Proof.Codec

/-! ### The fields as numbers (R71) -/

theorem Field.toNat_get {k : Nat} (f : Field k) (w : Word) : (f.get w).toNat = w.toNat / 2 ^ f.lo % 2 ^ k := by
  rw [Field.get, BitVec.extractLsb'_toNat, Nat.shiftRight_eq_div_pow]

/-- A field at the low end of the word. -/
theorem Field.toNat_get_low {k : Nat} {f : Field k} (h : f.lo = 0) (w : Word) : (f.get w).toNat = w.toNat % 2 ^ k := by
  rw [Field.toNat_get, h, pow_zero, Nat.div_one]

/-- The opcode nibble is at the high end: nothing is cut off above it. -/
theorem toNat_opField (w : Word) : (opField.get w).toNat = w.toNat / 2 ^ 12 := by
  rw [Field.toNat_get]
  exact Nat.mod_eq_of_lt (Nat.div_lt_of_lt_mul w.isLt)

theorem toNat_highNibble (b : Byte) : (b.extractLsb' 4 4).toNat = b.toNat / 2 ^ 4 := by
  rw [BitVec.extractLsb'_toNat, Nat.shiftRight_eq_div_pow]
  exact Nat.mod_eq_of_lt (Nat.div_lt_of_lt_mul b.isLt)

theorem toNat_lowNibble (b : Byte) : (b.extractLsb' 0 4).toNat = b.toNat % 2 ^ 4 := by
  rw [BitVec.extractLsb'_toNat, Nat.shiftRight_zero]

/-- Settles O4: the positions in the word and in its bytes as numbers, the overlaps by how the bytes are put together. -/
theorem wordFieldsStandWhereTheTableSays : Obligations.WordFieldsStandWhereTheTableSays := by
  refine ⟨fun w => ?_, fun b0 b1 => ?_⟩
  · rw [opOf_pairOf, xOf_pairOf, yOf_pairOf, nOf_pairOf, nnOf_eq, nnnOf_pairOf]
    exact ⟨toNat_opField w, xField.toNat_get w, yField.toNat_get w, Field.toNat_get_low rfl w,
      Field.toNat_get_low rfl w, Field.toNat_get_low rfl w⟩
  · rw [nnOf_eq, nnnOf_eq, yOf_append_nOf, opOf_eq, xOf_eq, yOf_eq, nOf_eq]
    exact ⟨toNat_highNibble b0, toNat_lowNibble b0, toNat_highNibble b1, toNat_lowNibble b1, rfl, rfl, rfl⟩

/-! ### Masks and fields -/

theorem Field.get_and {k : Nat} (f : Field k) (a b : Word) : f.get (a &&& b) = f.get a &&& f.get b := by
  ext i hi
  rw [← BitVec.getLsbD_eq_getElem, ← BitVec.getLsbD_eq_getElem, BitVec.getLsbD_and]
  simp only [Field.getLsbD_get, BitVec.getLsbD_and, hi, decide_true, Bool.true_and]

theorem wordOf_inj {p q : Byte × Byte} : wordOf p = wordOf q ↔ p = q :=
  ⟨fun h => by rw [← pairOf_wordOf p, h, pairOf_wordOf], congrArg wordOf⟩

theorem and_F000_eq_iff {w m : Word} {op : Nibble} (hm : wordOf (op ++ (0 : Nibble), 0) = m) :
    w &&& 0xF000 = m ↔ opField.get w = op := by
  rw [← hm, ← opOf_pairOf, ← wordOf_pairOf w, and_F000, pairOf_wordOf, wordOf_inj, Prod.mk.injEq,
    BitVec.append_left_inj, and_iff_left rfl]

theorem and_F0FF_eq_iff {w m : Word} {op : Nibble} {nn : Byte} (hm : wordOf (op ++ (0 : Nibble), nn) = m) :
    w &&& 0xF0FF = m ↔ opField.get w = op ∧ (pairOf w).2 = nn := by
  rw [← hm, ← opOf_pairOf, ← wordOf_pairOf w, and_F0FF, pairOf_wordOf, wordOf_inj, Prod.mk.injEq,
    BitVec.append_left_inj]

/-- Mask 0xFFF0 clears the low nibble. -/
theorem and_FFF0 (p : Byte × Byte) : wordOf p &&& 0xFFF0 = wordOf (p.1, yOf p.2 ++ (0 : Nibble)) := by
  ext i hi
  rw [← BitVec.getLsbD_eq_getElem, ← BitVec.getLsbD_eq_getElem, BitVec.getLsbD_and, wordOf_eq, wordOf_eq, getLsbD_bytes,
    getLsbD_bytes, getLsbD_nibbles, yOf_eq, BitVec.getLsbD_extractLsb']
  interval_cases i <;> simp

/-! ### The encoders give a word back from its own fields -/

/-- A word is its opcode nibble and its `nnn`. -/
theorem opField_put_or_nnnField_put (w : Word) : opField.put (opField.get w) ||| nnnField.put (nnnField.get w) = w := by
  ext i hi
  simp only [← BitVec.getLsbD_eq_getElem, BitVec.getLsbD_or, Field.getLsbD_put, Field.getLsbD_get, opField, nnnField]
  by_cases h : i < 12
  · simp [h, hi]
  · simp [h, hi, show i - 12 < 4 by omega, show 12 + (i - 12) = i by omega]

section
variable {w : Word} {op n : Nibble}

theorem encodeNnn_fields (h : opField.get w = op) : encodeNnn op (nnnField.get w) = pairOf w := by
  rw [encodeNnn, ← h, opField_put_or_nnnField_put]

theorem encodeXnn_fields (h : opField.get w = op) : encodeXnn op (xField.get w) (pairOf w).2 = pairOf w := by
  rw [encodeXnn_eq, ← h, ← opOf_pairOf, ← xOf_pairOf, opOf_append_xOf]

theorem encodeXyn_fields (h : opField.get w = op) (hn : nField.get w = n) :
    encodeXyn op (xField.get w) (yField.get w) n = pairOf w := by
  rw [encodeXyn_eq, ← h, ← hn, ← opOf_pairOf, ← xOf_pairOf, ← yOf_pairOf, ← nOf_pairOf, opOf_append_xOf, yOf_append_nOf]

end

end Sys2Proof.Codec
end

section
/-!
SUPPORT. Decoder and encoder: decoding after encoding, and encoding after decoding (30_encoding R74, R75, R81).
-/

namespace Sys2Proof.Machine

open Codec

/-! ### The fallback row (R211, R212, R214) -/

/-- The low nibbles that no member of group 8 has (R212). -/
def unclaimedNibbles : List Nibble := [0x8, 0x9, 0xA, 0xB, 0xC, 0xD, 0xF]

/-- A fallback word is in group 0, 8 or 0xF, without the second field of a member. -/
theorem wellFormed_fallback_iff (w : Word) :
    (Instr.unimplementedFallback w).wellFormed = true ↔
      (opField.get w = 0 ∧ (pairOf w).2 ≠ 0xE0 ∧ (pairOf w).2 ≠ 0xEE) ∨
      (opField.get w = 8 ∧ nField.get w ∈ unclaimedNibbles) ∨
      (opField.get w = 0xF ∧ (pairOf w).2 ≠ 0x07 ∧ (pairOf w).2 ≠ 0x15 ∧ (pairOf w).2 ≠ 0x18) := by
  simp [Instr.wellFormed, unclaimedGroup0, unclaimedGroup8, unclaimedGroupF, unclaimedNibbles, or_assoc]

/-! ### The groups with a second field (R74) -/

section
variable {w : Word}

/-- Group 0 by its low byte. -/
theorem decodeWord_group0 (h : opField.get w = 0) :
    decodeWord w =
      if (pairOf w).2 = 0xE0 then .cls else if (pairOf w).2 = 0xEE then .ret else .unimplementedFallback w := by
  rw [decodeWord, decodePair, opOf_pairOf, h]
  show decodeGroup0 _ _ = _
  rw [decodeGroup0, nnOf_eq, Prod.eta, wordOf_pairOf]
  split
  · next e => rw [if_pos (BitVec.eq_of_toNat_eq e)]
  · next e => rw [BitVec.eq_of_toNat_eq (y := 0xEE) e]; rfl
  · next hcls hret => rw [if_neg (mt (congrArg BitVec.toNat) hcls), if_neg (mt (congrArg BitVec.toNat) hret)]

/-- Group 0xF by its low byte. -/
theorem decodeWord_groupF (h : opField.get w = 0xF) :
    decodeWord w =
      if (pairOf w).2 = 0x07 then .ldVxDt (regOf (xField.get w))
      else if (pairOf w).2 = 0x15 then .ldDtVx (regOf (xField.get w))
      else if (pairOf w).2 = 0x18 then .ldStVx (regOf (xField.get w)) else .unimplementedFallback w := by
  rw [decodeWord, decodePair, opOf_pairOf, h]
  show decodeGroupF _ _ = _
  rw [decodeGroupF, nnOf_eq, xOf_pairOf, Prod.eta, wordOf_pairOf]
  split
  · next e => rw [if_pos (BitVec.eq_of_toNat_eq e)]
  · next e => rw [BitVec.eq_of_toNat_eq (y := 0x15) e]; rfl
  · next e => rw [BitVec.eq_of_toNat_eq (y := 0x18) e]; rfl
  · next hget hset hst =>
    rw [if_neg (mt (congrArg BitVec.toNat) hget), if_neg (mt (congrArg BitVec.toNat) hset),
      if_neg (mt (congrArg BitVec.toNat) hst)]

/-- A word that no other row claims falls through. -/
theorem decodeWord_of_unclaimed (h : (Instr.unimplementedFallback w).wellFormed = true) :
    decodeWord w = .unimplementedFallback w := by
  rcases (wellFormed_fallback_iff w).1 h with ⟨hop, hcls, hret⟩ | ⟨hop, hn⟩ | ⟨hop, hget, hset, hst⟩
  · rw [decodeWord_group0 hop, if_neg hcls, if_neg hret]
  · simp only [unclaimedNibbles, List.mem_cons, List.not_mem_nil, or_false] at hn
    rcases hn with e | e | e | e | e | e | e <;> simp [decodeWord, decodePair, decodeGroup8, hop, e]
  · rw [decodeWord_groupF hop, if_neg hget, if_neg hset, if_neg hst]

end

/-! ### Decoding after encoding (R81, R112) -/

/-- Settles O6, by the instruction: the decoder reads the fields the encoder put in, and a fallback word is one
that no other row claims. -/
theorem decodeOfEncodeIsTheInstruction : Obligations.DecodeOfEncodeIsTheInstruction := by
  intro i h
  cases i with
  | unimplementedFallback w => exact (congrArg decodeWord (wordOf_pairOf w)).trans (decodeWord_of_unclaimed h)
  | _ =>
    rw [encodeWord, decodeWord_wordOf]
    simp [encode, decodePair, decodeGroup0, decodeGroup8, decodeGroupF]

/-! ### Encoding after decoding, where every bit is looked at (R81) -/

/-- A well-formed instruction that has the word as its encoding. -/
def CodeIs (w : Word) (i : Instr) : Prop := i.wellFormed = true ∧ encodeWord i = w

theorem CodeIs.of_encode {w : Word} {i : Instr} (hwf : i.wellFormed = true) (h : encode i = pairOf w) : CodeIs w i :=
  ⟨hwf, by rw [encodeWord, h, wordOf_pairOf]⟩

/-- The opcode nibbles: those of group 5 and of the groups with a second field, then the rest. -/
theorem opcode_cases : ∀ op : Nibble,
    op = 0 ∨ op = 5 ∨ op = 8 ∨ op = 0xF ∨
    (op = 1 ∨ op = 2 ∨ op = 3 ∨ op = 4 ∨ op = 6 ∨ op = 7 ∨
      op = 9 ∨ op = 0xA ∨ op = 0xB ∨ op = 0xC ∨ op = 0xD ∨ op = 0xE) := by decide

/-- The low nibbles of group 8: those of no member, then the nine members'. -/
theorem group8_cases : ∀ n : Nibble,
    n ∈ unclaimedNibbles ∨
    (n = 0 ∨ n = 1 ∨ n = 2 ∨ n = 3 ∨ n = 4 ∨ n = 5 ∨ n = 6 ∨ n = 7 ∨ n = 0xE) := by decide

section
variable {w : Word}

theorem codeIs_of_unclaimed (h : (Instr.unimplementedFallback w).wellFormed = true) : CodeIs w (decodeWord w) := by
  rw [decodeWord_of_unclaimed h]
  exact .of_encode h rfl

theorem codeIs_group8 (h : opField.get w = 8) : CodeIs w (decodeWord w) := by
  rcases group8_cases (nField.get w) with hn | hn
  · exact codeIs_of_unclaimed ((wellFormed_fallback_iff w).2 (.inr (.inl ⟨h, hn⟩)))
  · rcases hn with e | e | e | e | e | e | e | e | e <;> apply CodeIs.of_encode <;>
      simp [decodeWord, decodePair, decodeGroup8, Instr.wellFormed, encode, encodeXyn_fields, h, e]

theorem codeIs_groupF (h : opField.get w = 0xF) : CodeIs w (decodeWord w) := by
  rw [decodeWord_groupF h]
  split_ifs with hget hset hst
  · exact .of_encode rfl (by rw [← encodeXnn_fields h, hget]; rfl)
  · exact .of_encode rfl (by rw [← encodeXnn_fields h, hset]; rfl)
  · exact .of_encode rfl (by rw [← encodeXnn_fields h, hst]; rfl)
  · exact .of_encode ((wellFormed_fallback_iff w).2 (.inr (.inr ⟨h, hget, hset, hst⟩))) rfl

/-- Outside the three rows with don't-care bits, a word is the encoding of what it decodes to. -/
theorem codeIs_decodeWord (hcls : ¬(opField.get w = 0 ∧ (pairOf w).2 = 0xE0))
    (hret : ¬(opField.get w = 0 ∧ (pairOf w).2 = 0xEE)) (hse : ¬opField.get w = 5) : CodeIs w (decodeWord w) := by
  rcases opcode_cases (opField.get w) with h | h | h | h | h
  · exact codeIs_of_unclaimed ((wellFormed_fallback_iff w).2 (.inl ⟨h, (hcls ⟨h, ·⟩), (hret ⟨h, ·⟩)⟩))
  · exact absurd h hse
  · exact codeIs_group8 h
  · exact codeIs_groupF h
  · rcases h with e | e | e | e | e | e | e | e | e | e | e | e <;> apply CodeIs.of_encode <;>
      simp [decodeWord, decodePair, Instr.wellFormed, encode, encodeNnn_fields, encodeXnn_fields, encodeXyn_fields, e]

end

/-! ### The canonical word (R75, R81) -/

/-- All the decoder can answer: `CLS`, `RET` and `SE Vx,Vy`, whose words have bits it does not look at, or an
instruction that has the word as its encoding. -/
theorem decodeWord_cases (w : Word) :
    (w &&& 0xF0FF = 0x00E0 ∧ decodeWord w = .cls) ∨
    (w &&& 0xF0FF = 0x00EE ∧ decodeWord w = .ret) ∨
    (w &&& 0xF000 = 0x5000 ∧ decodeWord w = .seVxVy (regOf (xField.get w)) (regOf (yField.get w))) ∨
    (¬w &&& 0xF0FF = 0x00E0 ∧ ¬w &&& 0xF0FF = 0x00EE ∧ ¬w &&& 0xF000 = 0x5000 ∧ CodeIs w (decodeWord w)) := by
  rw [and_F0FF_eq_iff (m := 0x00E0) (op := 0) (nn := 0xE0) rfl,
    and_F0FF_eq_iff (m := 0x00EE) (op := 0) (nn := 0xEE) rfl, and_F000_eq_iff (m := 0x5000) (op := 5) rfl]
  by_cases hcls : opField.get w = 0 ∧ (pairOf w).2 = 0xE0
  · exact .inl ⟨hcls, by rw [decodeWord_group0 hcls.1, if_pos hcls.2]⟩
  by_cases hret : opField.get w = 0 ∧ (pairOf w).2 = 0xEE
  · exact .inr (.inl ⟨hret, by rw [decodeWord_group0 hret.1, hret.2]; rfl⟩)
  by_cases hse : opField.get w = 5
  · exact .inr (.inr (.inl ⟨hse, by simp [decodeWord, decodePair, hse]⟩))
  · exact .inr (.inr (.inr ⟨hcls, hret, hse, codeIs_decodeWord hcls hret hse⟩))

/-- The encoder clears the low nibble of a `SE Vx,Vy` (R75). -/
theorem encodeWord_seVxVy {w : Word} (h : opField.get w = 5) :
    encodeWord (.seVxVy (regOf (xField.get w)) (regOf (yField.get w))) = w &&& 0xFFF0 := by
  have e : (pairOf w).1 = (5 : Nibble) ++ xField.get w := by
    rw [← opOf_append_xOf (pairOf w).1, opOf_pairOf, xOf_pairOf, h]
  calc
    _ = wordOf ((5 : Nibble) ++ xField.get w, yField.get w ++ (0 : Nibble)) := congrArg wordOf (encodeXyn_eq ..)
    _ = wordOf (pairOf w) &&& 0xFFF0 := by rw [and_FFF0, yOf_pairOf, e]
    _ = w &&& 0xFFF0 := by rw [wordOf_pairOf]

/-- A word of group 5 is in no row of group 0. -/
theorem and_F0FF_ne_of_group5 {w m : Word} {nn : Byte} (h : opField.get w = 5)
    (hm : wordOf ((0 : Nibble) ++ (0 : Nibble), nn) = m) : ¬w &&& 0xF0FF = m :=
  fun h' => absurd (h.symm.trans ((and_F0FF_eq_iff hm).1 h').1) (by decide)

/-- Settles O7, by what the decoder can answer. -/
theorem encodeOfDecodeIsTheCanonicalWord : Obligations.EncodeOfDecodeIsTheCanonicalWord := by
  intro w
  rcases decodeWord_cases w with ⟨h, e⟩ | ⟨h, e⟩ | ⟨h, e⟩ | ⟨hcls, hret, hse, hwf, henc⟩
  · rw [e, if_pos h]
    exact ⟨rfl, rfl⟩
  · rw [e, h]
    exact ⟨rfl, rfl⟩
  · have hop : opField.get w = 5 := (and_F000_eq_iff rfl).1 h
    rw [e, encodeWord_seVxVy hop, if_neg (and_F0FF_ne_of_group5 (m := 0x00E0) (nn := 0xE0) hop rfl),
      if_neg (and_F0FF_ne_of_group5 (m := 0x00EE) (nn := 0xEE) hop rfl), if_pos h]
    exact ⟨rfl, rfl⟩
  · rw [if_neg hcls, if_neg hret, if_neg hse]
    exact ⟨hwf, henc⟩

/-- Settles O10: each word is decoded by computation. -/
theorem sampleWordsDecodeAsListed : Obligations.SampleWordsDecodeAsListed :=
  ⟨rfl, rfl, rfl, rfl, rfl, rfl, rfl, rfl, rfl, rfl, rfl, rfl⟩

end Sys2Proof.Machine
end

section
/-!
SUPPORT. The opcode map (30_encoding R76, R78, R80): the row a word selects, and the words that select no
implemented row.
-/

namespace Sys2Proof.Machine

open Codec

/-! ### The unimplemented words (R78) -/

/-- The unimplemented words: what groups 0, 8 and 0xF leave over, and all of groups 9, 0xB and 0xE. -/
theorem unimplemented_iff (w : Word) :
    (decodeWord w).implemented = false ↔
      (opField.get w = 0x0 ∧ (pairOf w).2 ≠ 0xE0 ∧ (pairOf w).2 ≠ 0xEE) ∨
      (opField.get w = 0x8 ∧ nField.get w ∈ unclaimedNibbles) ∨
      opField.get w = 0x9 ∨ opField.get w = 0xB ∨ opField.get w = 0xE ∨
      (opField.get w = 0xF ∧ (pairOf w).2 ≠ 0x07 ∧ (pairOf w).2 ≠ 0x15 ∧ (pairOf w).2 ≠ 0x18) := by
  have hfall (h : (Instr.unimplementedFallback w).wellFormed = true) : (decodeWord w).implemented = false := by
    rw [decodeWord_of_unclaimed h]
    rfl
  constructor
  · intro h
    rcases decodeWord_cases w with ⟨_, e⟩ | ⟨_, e⟩ | ⟨_, e⟩ | ⟨_, _, _, hwf, henc⟩
    · exact nomatch e ▸ h
    · exact nomatch e ▸ h
    · exact nomatch e ▸ h
    · generalize decodeWord w = i at h hwf henc
      subst henc
      cases i with
      | unimplementedGroup9 | unimplementedGroupB | unimplementedGroupE => simp [encodeWord, encode, ← opOf_pairOf]
      | unimplementedFallback w =>
        rw [encodeWord, encode, wordOf_pairOf]
        rcases (wellFormed_fallback_iff w).1 hwf with h0 | h8 | hF
        · exact .inl h0
        · exact .inr (.inl h8)
        · exact .inr (.inr (.inr (.inr (.inr hF))))
      | _ => exact nomatch h
  · rintro (h0 | h8 | h9 | hB | hE | hF)
    · exact hfall ((wellFormed_fallback_iff w).2 (.inl h0))
    · exact hfall ((wellFormed_fallback_iff w).2 (.inr (.inl h8)))
    · simp [decodeWord, decodePair, Instr.implemented, h9]
    · simp [decodeWord, decodePair, Instr.implemented, hB]
    · simp [decodeWord, decodePair, Instr.implemented, hE]
    · exact hfall ((wellFormed_fallback_iff w).2 (.inr (.inr hF)))

/-- Settles O9: the fields of the unimplemented words, as numbers. -/
theorem unimplementedWordsAreTheListedSpace : Obligations.UnimplementedWordsAreTheListedSpace := by
  intro w
  have hop (v : Nibble) : opField.get w = v ↔ w.toNat / 4096 = v.toNat := by
    rw [← BitVec.toNat_inj, toNat_opField]; rfl
  have hn (v : Nibble) : nField.get w = v ↔ w.toNat % 16 = v.toNat := by
    rw [← BitVec.toNat_inj, Field.toNat_get_low (f := nField) rfl]; rfl
  have hnn (v : Byte) : (pairOf w).2 = v ↔ w.toNat % 256 = v.toNat := by
    rw [pairOf_snd, ← BitVec.toNat_inj, Field.toNat_get_low (f := nnField) rfl]; rfl
  rw [unimplemented_iff]
  simp [unclaimedNibbles, hop, hn, hnn]

/-! ### The implemented rows (R76) -/

theorem selects_iff (w : Word) (row : Word × Word) : selects w row = true ↔ w &&& row.2 = row.1 := beq_iff_eq

theorem tableRow_mem {i : Instr} (h : i.implemented = true) : tableRow i ∈ implementedRows := by
  cases i with
  | unimplementedGroup9 | unimplementedGroupB | unimplementedGroupE | unimplementedFallback => exact nomatch h
  | _ => simp [tableRow, implementedRows]

/-- Any two implemented rows differ in a bit that both masks cover. -/
theorem implementedRows_pairwise : implementedRows.Pairwise fun r s => r.1 &&& s.2 ≠ s.1 &&& r.2 := by decide

/-- A word selects at most one implemented row. -/
theorem implementedRow_unique {w : Word} {r s : Word × Word} (hr : r ∈ implementedRows) (hs : s ∈ implementedRows)
    (hwr : selects w r = true) (hws : selects w s = true) : r = s := by
  by_contra hne
  have hsymm : Std.Symm fun r s : Word × Word => r.1 &&& s.2 ≠ s.1 &&& r.2 := ⟨fun _ _ h => h.symm⟩
  refine implementedRows_pairwise.forall hr hs hne ?_
  rw [selects_iff] at hwr hws
  rw [← hwr, ← hws, BitVec.and_assoc, BitVec.and_assoc, BitVec.and_comm r.2]

/-- A word that selects a row has the row's value in every field the row's mask covers. -/
theorem get_of_selects {k : Nat} {f : Field k} {w : Word} {row : Word × Word} (hm : f.get row.2 = BitVec.allOnes k)
    (h : selects w row = true) : f.get w = f.get row.1 := by
  rw [selects_iff] at h
  rw [← h, Field.get_and, hm, BitVec.and_allOnes]

/-- A check of the 24 rows, one by one. -/
theorem forall_implementedRows {P : Word × Word → Prop} [DecidablePred P]
    (h : (implementedRows.all fun row => decide (P row)) = true) : ∀ row ∈ implementedRows, P row :=
  fun row hrow => of_decide_eq_true (List.all_eq_true.1 h row hrow)

/-- An implemented row fixes the opcode nibble, to that of a group with a member. -/
theorem implementedRow_op : ∀ row ∈ implementedRows,
    opField.get row.2 = 0xF ∧ opField.get row.1 ∉ ([0x9, 0xB, 0xE] : List Nibble) :=
  forall_implementedRows (by decide)

/-- An implemented row of group 0, 8 or 0xF fixes the second field, to that of a member. -/
theorem implementedRow_second : ∀ row ∈ implementedRows,
    (opField.get row.1 = 0x0 → nnField.get row.2 = 0xFF ∧ (nnField.get row.1 = 0xE0 ∨ nnField.get row.1 = 0xEE)) ∧
    (opField.get row.1 = 0x8 → nField.get row.2 = 0xF ∧ nField.get row.1 ∉ unclaimedNibbles) ∧
    (opField.get row.1 = 0xF → nnField.get row.2 = 0xFF ∧
      (nnField.get row.1 = 0x07 ∨ nnField.get row.1 = 0x15 ∨ nnField.get row.1 = 0x18)) :=
  forall_implementedRows (by decide)

/-- An unimplemented word selects no implemented row. -/
theorem not_selects_of_unimplemented {w : Word} (h : (decodeWord w).implemented = false) {row : Word × Word}
    (hrow : row ∈ implementedRows) : ¬selects w row = true := by
  intro hsel
  obtain ⟨hmask, hgroup⟩ := implementedRow_op row hrow
  obtain ⟨h0, h8, hF⟩ := implementedRow_second row hrow
  rw [← get_of_selects hmask hsel] at hgroup h0 h8 hF
  rcases (unimplemented_iff w).1 h with ⟨hop, hcls, hret⟩ | ⟨hop, hn⟩ | hop | hop | hop | ⟨hop, hget, hset, hst⟩
  · obtain ⟨hm, hv⟩ := h0 hop
    rw [← get_of_selects hm hsel] at hv
    exact hv.elim hcls hret
  · obtain ⟨hm, hv⟩ := h8 hop
    rw [← get_of_selects hm hsel] at hv
    exact hv hn
  · exact hgroup (by rw [hop]; decide)
  · exact hgroup (by rw [hop]; decide)
  · exact hgroup (by rw [hop]; decide)
  · obtain ⟨hm, hv⟩ := hF hop
    rw [← get_of_selects hm hsel] at hv
    exact hv.elim hget (·.elim hset hst)

/-! ### The row the decoder picks (R76, R80) -/

open Laws.RowMatch in
/-- The encoding of a well-formed instruction selects the instruction's own row. -/
theorem selects_encodeWord : ∀ i : Instr, Statement i
  | .cls => cls
  | .ret => ret
  | .jp nnn => jp nnn
  | .call nnn => call nnn
  | .seVxNn x nn => seVxNn x nn
  | .sneVxNn x nn => sneVxNn x nn
  | .seVxVy x y => seVxVy x y
  | .ldVxNn x nn => ldVxNn x nn
  | .addVxNn x nn => addVxNn x nn
  | .ldVxVy x y => ldVxVy x y
  | .orVxVy x y => orVxVy x y
  | .andVxVy x y => andVxVy x y
  | .xorVxVy x y => xorVxVy x y
  | .addVxVy x y => addVxVy x y
  | .subVxVy x y => subVxVy x y
  | .shrVxVy x y => shrVxVy x y
  | .subnVxVy x y => subnVxVy x y
  | .shlVxVy x y => shlVxVy x y
  | .ldINnn nnn => ldINnn nnn
  | .rndVxNn x nn => rndVxNn x nn
  | .drwVxVyN x y n => drwVxVyN x y n
  | .ldVxDt x => ldVxDt x
  | .ldDtVx x => ldDtVx x
  | .ldStVx x => ldStVx x
  | .unimplementedGroup9 rest => unimplementedGroup9 rest
  | .unimplementedGroupB rest => unimplementedGroupB rest
  | .unimplementedGroupE rest => unimplementedGroupE rest
  | .unimplementedFallback w => unimplementedFallback w

/-- A word selects the row of the instruction it decodes to. -/
theorem selects_decodeWord (w : Word) : selects w (tableRow (decodeWord w)) = true := by
  rcases decodeWord_cases w with ⟨h, e⟩ | ⟨h, e⟩ | ⟨h, e⟩ | ⟨_, _, _, hwf, henc⟩
  · rw [e]
    exact (selects_iff ..).2 h
  · rw [e]
    exact (selects_iff ..).2 h
  · rw [e]
    exact (selects_iff ..).2 h
  · have hsel : selects (encodeWord (decodeWord w)) _ = true := selects_encodeWord _ hwf
    rwa [henc] at hsel

/-- Settles O8: the decoder's row is selected, no other implemented row is, and none by an unimplemented word. -/
theorem decoderPicksTheSelectedRow : Obligations.DecoderPicksTheSelectedRow := fun w =>
  ⟨selects_decodeWord w,
    fun hi _ hrow => ⟨fun h => implementedRow_unique hrow (tableRow_mem hi) h (selects_decodeWord w),
      fun h => h ▸ selects_decodeWord w⟩,
    fun hi _ hrow => Bool.eq_false_of_not_eq_true (not_selects_of_unimplemented hi hrow)⟩

end Sys2Proof.Machine
end

section
/-!
SUPPORT. The codec over a buffer (40_codec R100 to R112): where each extractor answers and what, and that each
encoder is a bijection onto the byte pairs.
-/

namespace Sys2Proof.Codec

/-! ### The encoders are bijections (R112) -/

theorem encodeNnn_of_bytes (p : Byte × Byte) : encodeNnn (opOf p.1) (nnnOf p.1 p.2) = p := by
  have h := encodeNnn_fields (w := wordOf p) rfl
  rwa [← opOf_pairOf, ← nnnOf_pairOf, pairOf_wordOf] at h

theorem encodeXnn_of_bytes (p : Byte × Byte) : encodeXnn (opOf p.1) (xOf p.1) p.2 = p := by
  rw [encodeXnn_eq, opOf_append_xOf]

theorem encodeXyn_of_bytes (p : Byte × Byte) : encodeXyn (opOf p.1) (xOf p.1) (yOf p.2) (nOf p.2) = p := by
  rw [encodeXyn_eq, opOf_append_xOf, yOf_append_nOf]

theorem encodeNnn_bijective : Function.Bijective fun f : Nibble × Addr => encodeNnn f.1 f.2 :=
  Function.bijective_iff_has_inverse.2
    ⟨fun p => (opOf p.1, nnnOf p.1 p.2), fun f => by simp, encodeNnn_of_bytes⟩

theorem encodeXnn_bijective : Function.Bijective fun f : Nibble × Nibble × Byte => encodeXnn f.1 f.2.1 f.2.2 :=
  Function.bijective_iff_has_inverse.2
    ⟨fun p => (opOf p.1, xOf p.1, p.2), fun f => by simp, encodeXnn_of_bytes⟩

theorem encodeXyn_bijective :
    Function.Bijective fun f : Nibble × Nibble × Nibble × Nibble => encodeXyn f.1 f.2.1 f.2.2.1 f.2.2.2 :=
  Function.bijective_iff_has_inverse.2
    ⟨fun p => (opOf p.1, xOf p.1, yOf p.2, nOf p.2), fun f => by simp, encodeXyn_of_bytes⟩

/-! ### What an extractor answers (R103 to R108) -/

section
variable {buf : List Byte} {off : Nat}

theorem opCode_of_lt (h : off < buf.length) : opCode buf off = some (opOf buf[off]) := by
  rw [opCode, List.getElem?_eq_getElem h, Option.map_some]

theorem opX_of_lt (h : off < buf.length) : opX buf off = some (xOf buf[off]) := by
  rw [opX, List.getElem?_eq_getElem h, Option.map_some]

theorem opY_of_lt (h : off + 1 < buf.length) : opY buf off = some (yOf buf[off + 1]) := by
  rw [opY, List.getElem?_eq_getElem h, Option.map_some]

theorem opN_of_lt (h : off + 1 < buf.length) : opN buf off = some (nOf buf[off + 1]) := by
  rw [opN, List.getElem?_eq_getElem h, Option.map_some]

theorem opNn_of_lt (h : off + 1 < buf.length) : opNn buf off = some buf[off + 1] := by
  rw [opNn, List.getElem?_eq_getElem h, Option.map_some, nnOf_eq]

theorem opNnn_of_lt (h : off + 1 < buf.length) : opNnn buf off = some (nnnOf buf[off] buf[off + 1]) := by
  rw [opNnn, List.getElem?_eq_getElem (Nat.lt_of_succ_lt h), Option.bind_some, List.getElem?_eq_getElem h,
    Option.map_some]

/-! ### Where an extractor answers nothing (R101) -/

theorem opCode_eq_none_iff : opCode buf off = none ↔ buf.length ≤ off :=
  Option.map_eq_none_iff.trans List.getElem?_eq_none_iff

theorem opX_eq_none_iff : opX buf off = none ↔ buf.length ≤ off :=
  Option.map_eq_none_iff.trans List.getElem?_eq_none_iff

theorem opY_eq_none_iff : opY buf off = none ↔ buf.length ≤ off + 1 :=
  Option.map_eq_none_iff.trans List.getElem?_eq_none_iff

theorem opN_eq_none_iff : opN buf off = none ↔ buf.length ≤ off + 1 :=
  Option.map_eq_none_iff.trans List.getElem?_eq_none_iff

theorem opNn_eq_none_iff : opNn buf off = none ↔ buf.length ≤ off + 1 :=
  Option.map_eq_none_iff.trans List.getElem?_eq_none_iff

/-- `op_nnn` needs both bytes, so the second alone decides. -/
theorem opNnn_eq_none_iff : opNnn buf off = none ↔ buf.length ≤ off + 1 := by
  constructor
  · intro hnone
    by_contra hlt
    exact nomatch hnone.symm.trans (opNnn_of_lt (Nat.lt_of_not_le hlt))
  · intro hle
    rw [opNnn, Option.bind_eq_none_iff]
    exact fun _ _ => Option.map_eq_none_iff.2 (List.getElem?_eq_none hle)

end

/-- Settles O3: the extractors on the two bytes, then the bijections. -/
theorem codecRoundTripsBothWays : Obligations.CodecRoundTripsBothWays := by
  refine ⟨fun op nnn => ?_, fun op x nn => ?_, fun op x y n => ?_, encodeNnn_bijective.existsUnique,
    encodeXnn_bijective.existsUnique, encodeXyn_bijective.existsUnique⟩
  · simp [opCode_of_lt, opNnn_of_lt]
  · simp [opCode_of_lt, opX_of_lt, opNn_of_lt]
  · simp [opCode_of_lt, opX_of_lt, opY_of_lt, opN_of_lt]

/-! ### The formulas of the fields, as numbers (R103 to R108) -/

theorem toNat_opOf (b0 : Byte) : (opOf b0).toNat = b0.toNat >>> 4 := by
  rw [opOf_eq, toNat_highNibble, Nat.shiftRight_eq_div_pow]

theorem toNat_xOf (b0 : Byte) : (xOf b0).toNat = b0.toNat &&& 0x0F := by
  rw [xOf_eq, toNat_lowNibble]
  exact (Nat.and_two_pow_sub_one_eq_mod b0.toNat 4).symm

theorem toNat_yOf (b1 : Byte) : (yOf b1).toNat = b1.toNat >>> 4 := by
  rw [yOf_eq, toNat_highNibble, Nat.shiftRight_eq_div_pow]

theorem toNat_nOf (b1 : Byte) : (nOf b1).toNat = b1.toNat &&& 0x0F := by
  rw [nOf_eq, toNat_lowNibble]
  exact (Nat.and_two_pow_sub_one_eq_mod b1.toNat 4).symm

theorem toNat_nnnOf (b0 b1 : Byte) : (nnnOf b0 b1).toNat = ((b0.toNat &&& 0x0F) <<< 8) ||| b1.toNat := by
  rw [nnnOf_eq, BitVec.toNat_append, toNat_xOf]

/-- Settles O1: each extractor's answer, and its formula as a number. -/
theorem codecExtractorsFollowTheirFormulas : Obligations.CodecExtractorsFollowTheirFormulas := fun _ _ =>
  ⟨fun h => ⟨⟨_, opCode_of_lt h, toNat_opOf _⟩, ⟨_, opX_of_lt h, toNat_xOf _⟩⟩,
    fun h => ⟨⟨_, opY_of_lt h, toNat_yOf _⟩, ⟨_, opN_of_lt h, toNat_nOf _⟩, opNn_of_lt h,
      ⟨_, opNnn_of_lt h, toNat_nnnOf _ _⟩⟩⟩

end Sys2Proof.Codec

namespace Sys2Proof.Machine

open Codec

/-- The index fault is raised exactly where the extractor answers nothing. -/
theorem codecAt_eq_error_iff {α : Type} {extract : List Byte → Nat → Option α} {buf : List Byte} {off : Nat} :
    codecAt extract buf off = .error (.codecWindow off) ↔ extract buf off = none := by
  rw [codecAt]
  cases extract buf off with
  | none => exact iff_of_true rfl rfl
  | some a => exact iff_of_false nofun nofun

/-- Settles O2, by where each extractor answers nothing. -/
theorem codecFaultsExactlyBeyondTheBuffer : Obligations.CodecFaultsExactlyBeyondTheBuffer := fun _ _ =>
  ⟨codecAt_eq_error_iff.trans opCode_eq_none_iff, codecAt_eq_error_iff.trans opX_eq_none_iff,
    codecAt_eq_error_iff.trans opY_eq_none_iff, codecAt_eq_error_iff.trans opN_eq_none_iff,
    codecAt_eq_error_iff.trans opNn_eq_none_iff, codecAt_eq_error_iff.trans opNnn_eq_none_iff⟩

end Sys2Proof.Machine
end

section
/-!
SUPPORT. What a cycle runs and reports (41_execution_loop R120 to R126; 60_exceptions R221 to R225), and the run of
jumps (R125).
-/

namespace Sys2Proof.Machine

/-! ### The cycle (R120, R121, R123, R124) -/

theorem decodeWord_wordAtPc (s : State) : decodeWord s.wordAtPc = s.nextInstr := decodeWord_wordOf _

/-- Whatever bytes stand at `PC`, they decode to a well-formed instruction (R80). -/
theorem State.nextInstr_wellFormed (s : State) : s.nextInstr.wellFormed = true := by
  rw [← decodeWord_wordAtPc]
  exact (encodeOfDecodeIsTheCanonicalWord s.wordAtPc).1

theorem step_of_trap {s : State} (h : s.trap = true) : step s = .next s.reportTrap := if_pos h

/-- Settles O11: the bytes at `PC` decode to `nextInstr`, and the cycle executes it. -/
theorem stepRunsTheDecodedInstruction : Obligations.StepRunsTheDecodedInstruction := by
  intro s i ht hpc hd
  obtain rfl : s.nextInstr = i := congrArg Prod.fst (Except.ok.inj hd)
  refine ⟨s.nextInstr_wellFormed, ?_, rfl⟩
  rw [step_eq_cycle, cycle_executes_wordAtPc ht (Nat.le_of_succ_le_succ hpc), decodeWord_wordAtPc]

/-- Settles O14: the trap check's report is the step. -/
theorem trapCheckEndsTheCycle : Obligations.TrapCheckEndsTheCycle := fun s ht =>
  ⟨s.reportTrap, step_of_trap ht, fun he => congrArg (some ∘ trapFlow) he, fun _ he => congrArg (some ∘ trapFlow) he,
    rfl⟩

/-! ### The run of jumps (R125) -/

theorem exec_ends_jump_run {i : Instr} (hi : i.implemented = true) (hjp : ∀ nnn, i ≠ .jp nnn) (s : State) :
    AllNext (fun t => t.jumpCount = 0) (exec i s) := by
  cases i with
  | jp nnn => exact absurd rfl (hjp nnn)
  | ret | call => exact allNext_andThen fun _ _ => rfl
  | drwVxVyN => exact allNext_execDrwVxVyN rfl
  | unimplementedGroup9 | unimplementedGroupB | unimplementedGroupE | unimplementedFallback => exact nomatch hi
  | _ => rfl

/-- Settles O23: the end of each implemented instruction clears the count, the exception's entry does not. -/
theorem everyInstructionButJpEndsTheJumpRun : Obligations.EveryInstructionButJpEndsTheJumpRun := by
  refine fun i s t h => ⟨fun hi hjp => (exec_ends_jump_run hi hjp s).of_next h, fun hi => ?_⟩
  obtain rfl := Host.Outcome.next.inj ((exec_unimplemented hi s).symm.trans h)
  rfl

/-! ### No refusal -/

theorem andThen_ne_refused {α : Type} {r : Except Fault α} {k : α → Outcome State Fault Refusal} {q : Refusal}
    (h : ∀ a, k a ≠ .refused q) : andThen r k ≠ .refused q := by
  cases r with
  | ok a => exact h a
  | error f => exact nofun

theorem exec_ne_refused (i : Instr) (s : State) (q : Refusal) : exec i s ≠ .refused q := by
  cases i with
  | ret | call => exact andThen_ne_refused fun _ => nofun
  | drwVxVyN x y n =>
    intro h
    rcases execDrwVxVyN_eq x y n s with ⟨_, e⟩ | ⟨_, _, e⟩ <;> exact nomatch e.symm.trans h
  | _ => exact nofun

theorem step_ne_refused (s : State) (q : Refusal) : step s ≠ .refused q := by
  intro h
  rcases cycle_cases (Config.freeTicks s.ticksTaken) s with ⟨_, e⟩ | ⟨_, _, e⟩ | ⟨_, _, e⟩
  · exact nomatch e.symm.trans h
  · exact nomatch e.symm.trans h
  · exact exec_ne_refused _ _ q (e.symm.trans h)

/-! ### What an instruction reports (R221, R222, R224) -/

/-- The flow an instruction reports when it completes from a state that reports none. -/
def reportedFlow (i : Instr) (s : State) : Option Flow :=
  match i with
  | .drwVxVyN _ _ _ => some .draw
  | .jp _ => if s.jumpCount + 1 > Config.jumpGuardThreshold then some .jump else none
  | .unimplementedGroup9 _ | .unimplementedGroupB _ | .unimplementedGroupE _ | .unimplementedFallback _ =>
    some (.error Config.errorMessage)
  | _ => none

theorem State.jumpGuarded_flow (s : State) (a : Word) :
    (s.jumpGuarded a).flow = if s.jumpCount + 1 > Config.jumpGuardThreshold then some .jump else s.flow := by
  unfold State.jumpGuarded; split <;> rfl

theorem State.flow_of_push {s t : State} {a : Word} (hp : s.push a = .ok t) : t.flow = s.flow :=
  (Frame.push hp).2 .flow (by decide)

theorem State.flow_of_pop {s t : State} {a : Word} (hp : s.pop = .ok (a, t)) : t.flow = s.flow :=
  (Frame.pop hp).2 .flow (by decide)

/-- Every instruction reports what `reportedFlow` says. -/
theorem exec_reports {s : State} (hs : s.flow = none) (i : Instr) :
    AllNext (fun t => t.flow = reportedFlow i s) (exec i s) := by
  cases i with
  | jp nnn => exact (s.jumpGuarded_flow (addrToPc nnn)).trans (by rw [hs]; rfl)
  | drwVxVyN => exact allNext_execDrwVxVyN rfl
  | unimplementedGroup9 | unimplementedGroupB | unimplementedGroupE | unimplementedFallback => rfl
  | ret => exact allNext_andThen fun _ hp => (State.flow_of_pop hp).trans hs
  | call => exact allNext_andThen fun _ hp => (State.flow_of_push hp).trans hs
  | _ => exact hs

section
variable (i : Instr) (s : State)

theorem reportedFlow_eq_draw_iff : reportedFlow i s = some .draw ↔ ∃ x y n, i = .drwVxVyN x y n := by
  cases i <;> simp [reportedFlow]

theorem reportedFlow_eq_jump_iff : reportedFlow i s = some .jump ↔
    (∃ nnn, i = .jp nnn) ∧ s.jumpCount + 1 > Config.jumpGuardThreshold := by
  cases i <;> simp [reportedFlow]

theorem reportedFlow_eq_error_iff (msg : String) : reportedFlow i s = some (.error msg) ↔
    i.implemented = false ∧ msg = Config.errorMessage := by
  cases i <;> simp [reportedFlow, Instr.implemented, eq_comm]

theorem reportedFlow_ne_interrupt : reportedFlow i s ≠ some .interrupt := by
  cases i <;> simp [reportedFlow]

theorem reportedFlow_ne_delay : reportedFlow i s ≠ some .delay := by
  cases i <;> simp [reportedFlow]

end

/-! ### What a step reports (R126, R223) -/

/-- All a step that completes can report: the trap check's flow, or that of the instruction at `PC`. -/
theorem step_flow_cases {s t : State} (h : step s = .next t) :
    (s.trap = true ∧ t.flow = some (trapFlow s.error)) ∨
    (s.trap = false ∧ t.flow = reportedFlow s.nextInstr s) := by
  rcases step_next_cases h with ⟨ht, rfl⟩ | ⟨ht, _, he⟩
  · exact .inl ⟨ht, rfl⟩
  · exact .inr ⟨ht, (exec_reports (State.beginCycle_flow _ _) _).of_next he⟩

/-- Settles O16: the two sources of a report, flow by flow. -/
theorem flowOfEveryCycle : Obligations.FlowOfEveryCycle := by
  refine fun s => ⟨step_ne_refused s, fun t h => ?_⟩
  rcases step_flow_cases h with ⟨ht, hf⟩ | ⟨ht, hf⟩
  · cases he : s.error with
    | none => simp [hf, ht, he, trapFlow]
    | some msg => simp [hf, ht, he, trapFlow]
  · simp [hf, ht, reportedFlow_eq_draw_iff, reportedFlow_eq_jump_iff, reportedFlow_eq_error_iff,
      reportedFlow_ne_interrupt, reportedFlow_ne_delay]

end Sys2Proof.Machine
end

section
/-!
SUPPORT. `resume` and `execute` (41_execution_loop R127, R128; 60_exceptions R233, R238): which cycle they end with,
and the stopped states.
-/

namespace Sys2Proof.Machine

/-! ### Stopped states (R223, R224, R233) -/

/-- A step that reports a stop leaves the state trapped, with the error it reports. -/
theorem trapped_of_step {s t : State} (h : step s = .next t) {e : Option String} (hf : t.flow = some (trapFlow e)) :
    t.trap = true ∧ t.error = e := by
  obtain ⟨-, -, hint, herr, -⟩ := (flowOfEveryCycle s).2 t h
  obtain ⟨htrap, hkept, -, hset⟩ := trapIsStickyAndSetOnlyByUnimplementedWords s t h
  cases e with
  | none =>
    obtain ⟨ht, he⟩ := hint.1 hf
    exact ⟨htrap.2 (.inl ht), (hkept ht).trans he⟩
  | some msg =>
    rcases (herr msg).1 hf with ⟨ht, he⟩ | ⟨ht, hi, rfl⟩
    · exact ⟨htrap.2 (.inl ht), (hkept ht).trans he⟩
    · exact ⟨htrap.2 (.inr hi), hset ht hi⟩

/-- A trapped state that reports its own stop steps to itself. -/
theorem step_of_stopped {t : State} (ht : t.trap = true) (hf : t.flow = some (trapFlow t.error)) :
    step t = .next t := by
  rw [step_of_trap ht, State.reportTrap, State.yield, ← hf]

/-! ### `resume` (R127) -/

/-- All a `resume` that returns can do: the next step reports nothing and it goes on, or reports the flow. -/
theorem resume_yielded_cases {k : Nat} {s t : State} {f : Flow} (h : resume (k + 1) s = .yielded f t) :
    (∃ u, step s = .next u ∧ u.flow = none ∧ resume k u = .yielded f t) ∨ (step s = .next t ∧ t.flow = some f) := by
  rw [resume] at h
  split at h
  · next u hs =>
    split at h
    · next hf => exact .inl ⟨u, hs, hf, h⟩
    · next f' hf =>
      obtain ⟨rfl, rfl⟩ := ResumeResult.yielded.inj h
      exact .inr ⟨hs, hf⟩
  · exact nomatch h
  · exact nomatch h

/-- The state a `resume` returns was reached by a step that reported the flow. -/
theorem last_step_of_resume {k : Nat} {s t : State} {f : Flow} (h : resume k s = .yielded f t) :
    ∃ u, step u = .next t ∧ t.flow = some f := by
  induction k generalizing s with
  | zero => exact nomatch h
  | succ k ih =>
    rcases resume_yielded_cases h with ⟨u, _, _, hu⟩ | hlast
    · exact ih hu
    · exact ⟨s, hlast⟩

/-- Settles O58: the returned state reports its own stop, so the next cycle leaves it as it is. -/
theorem resumeAfterAStopRepeatsIt : Obligations.ResumeAfterAStopRepeatsIt := by
  intro k m s t f h hstop
  obtain ⟨e, rfl⟩ : ∃ e, f = trapFlow e := by
    rcases hstop with rfl | ⟨msg, rfl⟩
    · exact ⟨none, rfl⟩
    · exact ⟨some msg, rfl⟩
  obtain ⟨u, hu, hf⟩ := last_step_of_resume h
  obtain ⟨ht, rfl⟩ := trapped_of_step hu hf
  rw [resume, step_of_stopped ht hf]
  dsimp only
  rw [hf]

/-! ### `execute` (R128, R238) -/

theorem executeLoop_of_no_flow {s t : State} (h : step s = .next t) (hf : t.flow = none) (k : Nat) :
    executeLoop (k + 1) s = executeLoop k t := by
  rw [executeLoop, h]; dsimp only; rw [hf]

/-- A transient flow is re-entered (R128). -/
theorem executeLoop_of_transient {s t : State} {f : Flow} (h : step s = .next t) (hf : t.flow = some f)
    (htrans : f = .draw ∨ f = .jump) (k : Nat) : executeLoop (k + 1) s = executeLoop k t := by
  rw [executeLoop, h]
  dsimp only
  rcases htrans with rfl | rfl <;> rw [hf]

/-- Settles O56, by induction on the budget of `resume`: the loop takes the same steps. -/
theorem executeReentersTransientFlows : Obligations.ExecuteReentersTransientFlows := by
  intro k s t f h htrans
  induction k generalizing s with
  | zero => exact nomatch h
  | succ k ih =>
    rcases resume_yielded_cases h with ⟨u, hs, hnone, hu⟩ | ⟨hs, hf⟩
    · obtain ⟨j, hj, hloop⟩ := ih u hu
      refine ⟨j + 1, Nat.succ_le_succ hj, fun m => ?_⟩
      rw [Nat.succ_add, executeLoop_of_no_flow hs hnone, hloop]
    · refine ⟨1, Nat.succ_le_succ (Nat.zero_le k), fun m => ?_⟩
      rw [Nat.add_comm, executeLoop_of_transient hs hf htrans]

/-- The error and the state an `execute` that was stopped returned with. -/
def ExecuteResult.stop? : ExecuteResult → Option (Option String × State)
  | .interrupted s => some (none, s)
  | .runtime msg s => some (some msg, s)
  | .running _ | .faulted _ | .refused _ => none

/-- The state the loop of `execute` stops in was reached by a step that reported the stop. -/
theorem last_step_of_executeLoop {k : Nat} {s t : State} {e : Option String}
    (h : (executeLoop k s).stop? = some (e, t)) : ∃ u, step u = .next t ∧ t.flow = some (trapFlow e) := by
  induction k generalizing s with
  | zero => exact nomatch h
  | succ k ih =>
    rw [executeLoop] at h
    split at h
    · next u hs =>
      split at h
      · next hf =>
        obtain ⟨rfl, rfl⟩ := Prod.mk.inj (Option.some.inj h)
        exact ⟨s, hs, hf⟩
      · next msg hf =>
        obtain ⟨rfl, rfl⟩ := Prod.mk.inj (Option.some.inj h)
        exact ⟨s, hs, hf⟩
      all_goals exact ih h
    · exact nomatch h
    · exact nomatch h

/-- The state an `execute` stops in is trapped, with the error it returns. -/
theorem trapped_of_execute {k : Nat} {s t : State} {e : Option String} (h : (execute k s).stop? = some (e, t)) :
    t.trap = true ∧ t.error = e :=
  let ⟨_, hu, hf⟩ := last_step_of_executeLoop h
  trapped_of_step hu hf

/-- Settles O57: success is a stop without an error, `Runtime` one with the text it carries. -/
theorem executeEndsOnlyTrapped : Obligations.ExecuteEndsOnlyTrapped := fun _ _ _ =>
  ⟨fun h => trapped_of_execute (congrArg ExecuteResult.stop? h),
    fun _ h => trapped_of_execute (congrArg ExecuteResult.stop? h)⟩

end Sys2Proof.Machine
end

section
/-!
SUPPORT. Control flow (42_control_flow R140 to R146): the skips, the run of jumps with its loop guard, and a call
with its return.
-/

namespace Sys2Proof.Machine

/-! ### The skips (R144, R145, R146) -/

theorem State.skipIf_pc_of_iff {taken : Bool} {cond : Prop} [Decidable cond] (h : taken = true ↔ cond) (s : State) :
    (s.skipIf taken).pc = if cond then s.pc + 4 else s.pc + 2 := by
  by_cases hc : cond
  · rw [if_pos hc, State.skipIf_pc, if_pos (h.2 hc)]
  · rw [if_neg hc, State.skipIf_pc, if_neg (mt h.1 hc)]

/-- An instruction that ends as a skip, taken when its condition holds, moves `PC` and clears the jump count. -/
theorem skip_completes {i : Instr} {s : State} {taken : Bool} {cond : Prop} [Decidable cond]
    (he : exec i s = .next (s.skipIf taken)) (h : taken = true ↔ cond) :
    ∃ t, exec i s = .next t ∧ t.pc = (if cond then s.pc + 4 else s.pc + 2) ∧ t.jumpCount = 0 ∧
      SameV [] s t ∧ SameBut [] s t :=
  ⟨s.skipIf taken, he, State.skipIf_pc_of_iff h s, rfl, Frame.skipIf s taken⟩

/-- Settles O35: each skip is taken exactly when its comparison has the sense of its mnemonic. -/
theorem skipsCompareAndAdvance : Obligations.SkipsCompareAndAdvance := fun _ _ _ _ =>
  ⟨skip_completes rfl (by simp [Operand.value]), skip_completes rfl (by simp [Operand.value]),
    skip_completes rfl (by simp [Operand.value])⟩

/-! ### The jumps (R142) -/

/-- Settles O36, by the two branches of the loop guard. -/
theorem jumpCountsAndYieldsAboveTheThreshold : Obligations.JumpCountsAndYieldsAboveTheThreshold := by
  refine fun nnn s => ⟨s.jumpGuarded (addrToPc nnn), rfl, ?_, fun hle => ?_, fun hgt => ?_, Frame.jumpGuarded s _⟩
  · rw [State.jumpGuarded_pc, toNat_addrToPc]
  · rw [State.jumpGuarded_below s _ hle]
    exact ⟨rfl, rfl⟩
  · rw [State.jumpGuarded_above s _ hgt]
    exact ⟨rfl, rfl⟩

/-- A count within the threshold goes up modulo `T + 1`. -/
theorem State.jumpGuarded_jumpCount {s : State} (h : s.jumpCount ≤ Config.jumpGuardThreshold) (a : Word) :
    (s.jumpGuarded a).jumpCount = (s.jumpCount + 1) % (Config.jumpGuardThreshold + 1) := by
  by_cases hc : s.jumpCount + 1 ≤ Config.jumpGuardThreshold
  · rw [State.jumpGuarded_below s a hc, Nat.mod_eq_of_lt (Nat.lt_succ_of_le hc)]
  · have heq : s.jumpCount = Config.jumpGuardThreshold := Nat.le_antisymm h (Nat.le_of_lt_succ (Nat.lt_of_not_le hc))
    rw [State.jumpGuarded_above s a (Nat.lt_of_not_le hc), heq, Nat.mod_self]

/-- A count within the threshold exceeds it where it comes round to 0. -/
theorem exceeds_threshold_iff {c : Nat} (h : c ≤ Config.jumpGuardThreshold) :
    c + 1 > Config.jumpGuardThreshold ↔ (c + 1) % (Config.jumpGuardThreshold + 1) = 0 := by
  rw [← Nat.dvd_iff_mod_eq_zero]
  exact ⟨fun hgt => by rw [Nat.le_antisymm h (Nat.le_of_lt_succ hgt)], fun hd => Nat.le_of_dvd (Nat.succ_pos c) hd⟩

theorem execAll_jp_cons (a : Addr) (is : List Instr) (s : State) :
    execAll (.jp a :: is) s = execAll is (({ s with flow := none } : State).jumpGuarded (addrToPc a)) := rfl

/-- A run of jumps from any count within the threshold: its last member decides `PC` and the report, and the count
has gone up by its length, modulo `T + 1`. -/
theorem execAll_jumps (targets : List Addr) (last : Addr) {s : State}
    (h : s.jumpCount ≤ Config.jumpGuardThreshold) :
    ∃ t, execAll ((targets ++ [last]).map Instr.jp) s = .next t ∧ t.pc.toNat = last.toNat ∧
      t.jumpCount = (s.jumpCount + (targets.length + 1)) % (Config.jumpGuardThreshold + 1) ∧
      t.flow = if (s.jumpCount + (targets.length + 1)) % (Config.jumpGuardThreshold + 1) = 0
        then some .jump else none := by
  induction targets generalizing s with
  | nil =>
    refine ⟨_, rfl, ?_, State.jumpGuarded_jumpCount (s := { s with flow := none }) h _, ?_⟩
    · rw [State.jumpGuarded_pc, toNat_addrToPc]
    · rw [State.jumpGuarded_flow]
      exact if_congr (exceeds_threshold_iff h) rfl rfl
  | cons a targets ih =>
    have hcount := State.jumpGuarded_jumpCount (s := { s with flow := none }) h (addrToPc a)
    obtain ⟨t, he, hpc, ht, hf⟩ := ih (hcount ▸ Nat.le_of_lt_succ (Nat.mod_lt _ (Nat.succ_pos _)))
    rw [hcount, Nat.mod_add_mod, Nat.add_assoc, Nat.add_comm 1] at ht hf
    exact ⟨t, he, hpc, ht, hf⟩

/-- Settles O37: a run from a count of 0. -/
theorem jumpRunYieldsAtMultiplesOfTheThreshold : Obligations.JumpRunYieldsAtMultiplesOfTheThreshold := by
  intro targets last s h0
  have hrun := execAll_jumps targets last (s := s) (h0 ▸ Nat.zero_le _)
  rwa [h0, Nat.zero_add] at hrun

/-! ### The stack's slots (R24, R25) -/

/-- A slot read after a slot write. -/
theorem CallStack.get_set (stack : CallStack) {i : Nat} (hi : i < Config.stackDepth) (a : Word)
    (k : Fin Config.stackDepth) : (stack.set i a hi).get k = if k.val = i then a else stack.get k := by
  show (stack.set i a hi)[k.val] = if k.val = i then a else stack[k.val]
  rw [Vector.getElem_set]
  simp only [eq_comm]

section
variable {s : State}

theorem State.push_of_free (h : s.sp.toNat + 1 < Config.stackDepth) (a : Word) :
    s.push a = .ok { s with sp := s.sp + 1, stack := s.stack.set (s.sp.toNat + 1) a h } := dif_pos h

theorem State.push_of_full (h : ¬ s.sp.toNat + 1 < Config.stackDepth) (a : Word) :
    s.push a = .error .stackOverflow := dif_neg h

theorem State.pop_of_slot {k : Fin Config.stackDepth} (hk : s.sp.toNat = k.val) (h0 : k.val ≠ 0) :
    s.pop = .ok (s.stack.get k, { s with sp := s.sp - 1 }) := by
  have hsp : s.sp ≠ 0 := fun e => h0 (hk.symm.trans (congrArg BitVec.toNat e))
  rcases s.pop_eq with ⟨e, _⟩ | ⟨_, hlt, e⟩ | ⟨_, hlt, _⟩
  · exact absurd e hsp
  · obtain rfl : ⟨s.sp.toNat, hlt⟩ = k := Fin.ext hk
    exact e
  · exact absurd (hk ▸ k.isLt) hlt

theorem State.pop_of_empty (h : s.sp = 0) : s.pop = .error .stackUnderflow := if_pos h

end

/-! ### `CALL` and `RET` (R141, R143) -/

theorem exec_call (nnn : Addr) (s : State) :
    exec (.call nnn) s = andThen (s.push s.pc) fun t => .next (t.goTo (addrToPc nnn)) := rfl

theorem exec_ret (s : State) : exec .ret s =
    andThen s.pop fun p => .next (p.2.goTo (p.1 + BitVec.ofNat 16 Config.retOffset)) := rfl

theorem exec_call_of_free {s : State} (h : s.sp.toNat + 1 < Config.stackDepth) (nnn : Addr) :
    exec (.call nnn) s = .next (State.goTo { s with
      sp := s.sp + 1
      stack := s.stack.set (s.sp.toNat + 1) s.pc h } (addrToPc nnn)) := by
  rw [exec_call, State.push_of_free h, andThen]

theorem exec_ret_of_slot {s : State} {k : Fin Config.stackDepth} (hk : s.sp.toNat = k.val) (h0 : k.val ≠ 0) :
    exec .ret s = .next (State.goTo { s with sp := s.sp - 1 }
      (s.stack.get k + BitVec.ofNat 16 Config.retOffset)) := by
  rw [exec_ret, State.pop_of_slot hk h0, andThen]

theorem retOffset_cases : Config.retOffset = 0 ∨ Config.retOffset = 2 := by
  unfold Config.retOffset
  split
  · exact .inr rfl
  · exact .inl rfl

/-- Settles O38: the push into the free slot, then the jump to the target. -/
theorem callPushesItsOwnAddress : Obligations.CallPushesItsOwnAddress := by
  intro nnn s h
  have hfree : s.sp.toNat + 1 < Config.stackDepth := Nat.lt_succ_of_le h
  have he := exec_call_of_free hfree nnn
  refine ⟨_, he, ?_, CallStack.get_set _ hfree _, toNat_addrToPc nnn, rfl, (exec_frame (.call nnn) s).of_next he⟩
  rw [State.goTo_sp]
  exact BitVec.toNat_add_of_lt (h.trans_lt (by decide))

/-- Settles O39: the pop of the slot, then the jump to its value plus `RET_OFFSET`. -/
theorem returnPopsTheSlotSpNames : Obligations.ReturnPopsTheSlotSpNames := by
  intro s k hk h0
  have he := exec_ret_of_slot hk h0
  refine ⟨_, he, rfl, retOffset_cases, ?_, rfl, rfl, (exec_frame .ret s).of_next he⟩
  have hpos : 1 ≤ s.sp.toNat := hk ▸ Nat.one_le_iff_ne_zero.2 h0
  rw [State.goTo_sp, BitVec.toNat_sub_of_le hpos]
  exact Nat.sub_add_cancel hpos

/-- Settles O40: the push and the pop that fault. -/
theorem stackFaultsAtBothEnds : Obligations.StackFaultsAtBothEnds := by
  refine fun nnn s => ⟨fun hempty => ?_, fun hfull => ?_⟩
  · rw [exec_ret, State.pop_of_empty hempty, andThen]
  · rw [exec_call, State.push_of_full (Nat.not_lt_of_le hfull), andThen]

/-- Settles O41: the `CALL` leaves its own address in the slot that the `RET` pops. -/
theorem returnComesBackToTheCall : Obligations.ReturnComesBackToTheCall := by
  intro nnn s h
  obtain ⟨t, he, hsp, hslot, -⟩ := callPushesItsOwnAddress nnn s h
  refine ⟨t, he, fun t' hsp' hslot' => ?_⟩
  have hlt : t.sp.toNat < Config.stackDepth := hsp ▸ Nat.lt_succ_of_le h
  obtain ⟨u, hu, hpc, -, hspu, -⟩ := returnPopsTheSlotSpNames t' ⟨t.sp.toNat, hlt⟩ (congrArg BitVec.toNat hsp')
    (ne_of_eq_of_ne hsp (Nat.succ_ne_zero _))
  refine ⟨u, hu, ?_, BitVec.eq_of_toNat_eq (Nat.succ.inj ?_)⟩
  · rw [hpc, hslot' _ rfl, hslot, if_pos hsp]
  · exact hspu.trans ((congrArg BitVec.toNat hsp').trans hsp)

end Sys2Proof.Machine
end


section
/-!
SUPPORT. Loads, arithmetic, logic, shifts, the address register and the random byte (43_load_alu R160 to R173; R201):
what each form of ending leaves, and the results and flags as numbers.
-/

namespace Sys2Proof.Machine

/-! ### How these instructions end -/

/-- An instruction whose updates keep `PC` and end with `advance` is sequential, in its own frame. -/
theorem sequential_of_exec {i : Instr} {s u : State} (he : exec i s = .next u.advance) (hpc : u.pc = s.pc) :
    Sequential (registersWritten i) (partsWritten i) s u.advance :=
  ⟨by rw [State.advance_pc, hpc], State.advance_jumpCount u, (exec_frame i s).of_next he⟩

section
variable {i : Instr} {x : Reg} {b flag : Byte} {s : State}

theorem storeResult_completes (he : exec i s = storeResult x b s) :
    ∃ t, exec i s = .next t ∧ t.getV x = b ∧ Sequential (registersWritten i) (partsWritten i) s t :=
  ⟨_, he, State.getV_setV_same s x b, sequential_of_exec he rfl⟩

theorem storeResult_completes_bits {f : Nat → Bool} (he : exec i s = storeResult x b s)
    (hb : ∀ k, b.getLsbD k = f k) :
    ∃ t, exec i s = .next t ∧ Sequential (registersWritten i) (partsWritten i) s t ∧
      ∀ k, k < 8 → (t.getV x).getLsbD k = f k := by
  obtain ⟨t, ht, hv, hs⟩ := storeResult_completes he
  exact ⟨t, ht, hs, fun k _ => hv ▸ hb k⟩

/-- The flag is written last: it is what `VF` holds, and the result is kept only by another register (D10). -/
theorem storeThenFlag_completes {m n : Nat} (he : exec i s = storeThenFlag x b flag s) (hb : b.toNat = m)
    (hflag : flag.toNat = n) :
    ∃ t, exec i s = .next t ∧ (x ≠ regVF → (t.getV x).toNat = m) ∧ (t.getV regVF).toNat = n ∧
      Sequential (registersWritten i) (partsWritten i) s t := by
  refine ⟨_, he, fun hx => ?_, ?_, sequential_of_exec he rfl⟩
  · rw [State.getV_advance, State.setVF, State.getV_setV_other _ hx, State.getV_setV_same, hb]
  · rw [State.getV_advance, State.setVF, State.getV_setV_same, hflag]

/-- The flag is written first: another `Vx` is shifted as it was, and `VF` itself is shifted after the flag (D11). -/
theorem flagThenShift_completes {shift : Byte → Byte} {m n : Nat} (he : exec i s = flagThenShift x flag shift s)
    (hshift : (shift (s.getV x)).toNat = m) (hflag : flag.toNat = n) :
    ∃ t, exec i s = .next t ∧ Sequential (registersWritten i) (partsWritten i) s t ∧
      (x ≠ regVF → (t.getV x).toNat = m ∧ (t.getV regVF).toNat = n) ∧
      (x = regVF → t.getV regVF = shift flag) := by
  refine ⟨_, he, sequential_of_exec he rfl, fun hx => ⟨?_, ?_⟩, fun hx => ?_⟩
  · rw [State.getV_advance, State.getV_setV_same, State.setVF, State.getV_setV_other _ hx, hshift]
  · rw [State.getV_advance, State.getV_setV_other _ hx.symm, State.setVF, State.getV_setV_same, hflag]
  · rw [hx, State.getV_advance, State.getV_setV_same, State.setVF, State.getV_setV_same]

end

/-! ### Results and flags as numbers -/

theorem toNat_sum8 (a b : Byte) : (sum8 a b).toNat = (a.toNat + b.toNat) % 256 := BitVec.toNat_add a b

theorem toNat_diff8 (a b : Byte) : (diff8 a b).toNat = (a.toNat + 256 - b.toNat) % 256 := by
  have hb : b.toNat < 256 := b.isLt
  rw [diff8, BitVec.toNat_sub]
  omega

theorem toNat_flagByte (c : Bool) : (flagByte c).toNat = if c then 1 else 0 := by
  cases c <;> rfl

theorem toNat_carryFlag (a b : Byte) : (carryFlag a b).toNat = if a.toNat + b.toNat > 255 then 1 else 0 := by
  rw [carryFlag, toNat_flagByte]
  simp only [decide_eq_true_eq]

theorem toNat_notBorrowFlag (a b : Byte) : (notBorrowFlag a b).toNat = if b.toNat > a.toNat then 0 else 1 := by
  rw [notBorrowFlag, toNat_flagByte]
  by_cases h : b.toNat > a.toNat
  · simp [h]
  · simp [h]

theorem toNat_lowBitOut (a : Byte) : (lowBitOut a).toNat = a.toNat % 2 := by
  rw [lowBitOut, BitVec.toNat_and]
  exact Nat.and_one_is_mod a.toNat

theorem toNat_shr1 (a : Byte) : (shr1 a).toNat = a.toNat / 2 := by
  rw [shr1, BitVec.toNat_ushiftRight, Nat.shiftRight_eq_div_pow, pow_one]

theorem toNat_highBitOut (a : Byte) : (highBitOut a).toNat = a.toNat / 128 := by
  have hlt : a.toNat / 128 < 2 := Nat.div_lt_of_lt_mul a.isLt
  have hshift : (a >>> 7).toNat = a.toNat / 128 := by
    rw [BitVec.toNat_ushiftRight, Nat.shiftRight_eq_div_pow]
  calc (highBitOut a).toNat = (a >>> 7).toNat % 2 := toNat_lowBitOut (a >>> 7)
    _ = a.toNat / 128 := by rw [hshift, Nat.mod_eq_of_lt hlt]

theorem toNat_shl1 (a : Byte) : (shl1 a).toNat = a.toNat * 2 % 256 := by
  rw [shl1, BitVec.toNat_shiftLeft, Nat.shiftLeft_eq, pow_one]

theorem shr1_lowBitOut (a : Byte) : shr1 (lowBitOut a) = 0 := by
  apply BitVec.eq_of_toNat_eq
  rw [toNat_shr1, toNat_lowBitOut]
  exact Nat.div_eq_of_lt (Nat.mod_lt _ two_pos)

theorem toNat_shl1_highBitOut (a : Byte) : (shl1 (highBitOut a)).toNat = a.toNat / 128 * 2 := by
  have ha : a.toNat < 256 := a.isLt
  rw [toNat_shl1, toNat_highBitOut]
  omega

/-! ### The instructions -/

/-- Settles O30: the sum, then the carry. -/
theorem addSetsCarry : Obligations.AddSetsCarry := fun _ _ _ =>
  storeThenFlag_completes rfl (toNat_sum8 _ _) (toNat_carryFlag _ _)

/-- Settles O31: the difference in the order of each, then the not-borrow of the same order. -/
theorem subtractionsSetNotBorrow : Obligations.SubtractionsSetNotBorrow := fun _ _ _ =>
  ⟨storeThenFlag_completes rfl (toNat_diff8 _ _) (toNat_notBorrowFlag _ _),
    storeThenFlag_completes rfl (toNat_diff8 _ _) (toNat_notBorrowFlag _ _)⟩

/-- Settles O32: the bit shifted out, then the shift of `Vx`, which is that bit when `Vx` is `VF`. -/
theorem shiftsCaptureTheBitShiftedOut : Obligations.ShiftsCaptureTheBitShiftedOut := by
  refine fun x y s => ⟨?_, ?_⟩
  · obtain ⟨t, he, hs, hne, heq⟩ :=
      flagThenShift_completes (i := .shrVxVy x y) (s := s) rfl (toNat_shr1 _) (toNat_lowBitOut _)
    exact ⟨t, he, hs, hne, fun hx => by rw [heq hx, shr1_lowBitOut]⟩
  · obtain ⟨t, he, hs, hne, heq⟩ :=
      flagThenShift_completes (i := .shlVxVy x y) (s := s) rfl (toNat_shl1 _) (toNat_highBitOut _)
    exact ⟨t, he, hs, hne, fun hx => by rw [heq hx, toNat_shl1_highBitOut]⟩

/-- Settles O27: each load stores the value of its operand. -/
theorem loadsWriteTheirSource : Obligations.LoadsWriteTheirSource := fun _ _ _ _ =>
  ⟨storeResult_completes rfl, storeResult_completes rfl, storeResult_completes rfl⟩

/-- Settles O28: the stored sum, as a number. -/
theorem addImmediateWrapsWithoutFlag : Obligations.AddImmediateWrapsWithoutFlag := by
  intro x nn s
  obtain ⟨t, he, hv, hs⟩ := storeResult_completes (i := .addVxNn x nn) (s := s) rfl
  exact ⟨t, he, hv ▸ toNat_sum8 _ _, hs⟩

/-- Settles O29: the stored result, bit by bit. -/
theorem logicGroupWorksBitByBit : Obligations.LogicGroupWorksBitByBit := fun _ _ _ =>
  ⟨storeResult_completes_bits rfl fun _ => BitVec.getLsbD_or,
    storeResult_completes_bits rfl fun _ => BitVec.getLsbD_and,
    storeResult_completes_bits rfl fun _ => BitVec.getLsbD_xor⟩

/-- Settles O33: the one update, then the advance. -/
theorem loadAddressRegister : Obligations.LoadAddressRegister := fun nnn s =>
  ⟨({ s with i := nnn } : State).advance, rfl, rfl, sequential_of_exec (i := .ldINnn nnn) rfl rfl⟩

/-- Settles O34: the masked byte is stored in the state the draw leaves. -/
theorem randomByteIsMasked : Obligations.RandomByteIsMasked := by
  intro x nn s
  have hv : ((s.drawByte.2.setV x (s.drawByte.1 &&& nn)).advance).getV x = Config.freeByte s.bytesDrawn &&& nn :=
    State.getV_setV_same s.drawByte.2 x _
  refine ⟨_, rfl, hv, fun k hk => ?_, rfl, sequential_of_exec (i := .rndVxNn x nn) rfl rfl⟩
  rw [hv, BitVec.getLsbD_and, hk, Bool.and_false]

end Sys2Proof.Machine
end

section
/-!
SUPPORT. `CLS` and `DRW` (44_display R191 to R194): which cells a sprite covers, the blit as one exclusive-or over
them, and the state a `DRW` ends in.
-/

namespace Sys2Proof.Machine

/-- Settles O42: the blank display, then the advance. -/
theorem clearUnsetsEveryCell : Obligations.ClearUnsetsEveryCell := fun s =>
  ⟨({ s with disp := Display.blank } : State).advance, rfl, Display.cell_blank, sequential_of_exec (i := .cls) rfl rfl⟩

/-! ### The cells of the blit loop (R193, R194 a) -/

theorem wrapRow_eq_iff (k : Nat) (r : Fin Config.displayHeight) : wrapRow k = r ↔ k % 32 = r.val := Fin.ext_iff

theorem wrapCol_eq_iff (k : Nat) (c : Fin Config.displayWidth) : wrapCol k = c ↔ k % 64 = c.val := Fin.ext_iff

/-- The eight columns of a sprite row wrap to different columns of the display. -/
theorem wrapCol_add_inj {x0 i j : Nat} (hi : i < 8) (hj : j < 8) (h : wrapCol (x0 + i) = wrapCol (x0 + j)) : i = j := by
  have hmod : (x0 + i) % 64 = (x0 + j) % 64 := (wrapCol_eq_iff _ _).1 h
  omega

/-- Rows less than 32 apart wrap to different rows of the display. -/
theorem wrapRow_ne_of_lt {y k : Nat} (hy : y < k) (hk : k < y + 32) : wrapRow y ≠ wrapRow k := by
  intro h
  have hmod : y % 32 = k % 32 := (wrapRow_eq_iff _ _).1 h
  omega

theorem mem_rowCells (x0 : Nat) (r : Fin Config.displayHeight) (b : Byte) (p : CellAt) :
    p ∈ rowCells x0 r b ↔ r = p.1 ∧ ∃ col < 8, spriteBit b col = true ∧ wrapCol (x0 + col) = p.2 := by
  simp only [rowCells, List.mem_map, List.mem_filter, List.mem_range]
  constructor
  · rintro ⟨col, ⟨hcol, hbit⟩, rfl⟩
    exact ⟨rfl, col, hcol, hbit, rfl⟩
  · rintro ⟨hr, col, hcol, hbit, hc⟩
    exact ⟨col, ⟨hcol, hbit⟩, Prod.ext hr hc⟩

theorem mem_spriteCells (x0 y : Nat) (bs : List Byte) (p : CellAt) :
    p ∈ spriteCells x0 y bs ↔ ∃ row b, bs[row]? = some b ∧ p ∈ rowCells x0 (wrapRow (y + row)) b := by
  induction bs generalizing y with
  | nil => simp [spriteCells]
  | cons b bs ih =>
    rw [spriteCells, List.mem_append, ih]
    constructor
    · rintro (h | ⟨row, b', hb, h⟩)
      · exact ⟨0, b, rfl, h⟩
      · exact ⟨row + 1, b', hb, by rwa [← Nat.add_assoc, Nat.add_right_comm]⟩
    · rintro ⟨_ | row, b', hb, h⟩
      · exact .inl (Option.some.inj hb ▸ h)
      · exact .inr ⟨row, b', hb, by rwa [Nat.add_right_comm, Nat.add_assoc]⟩

theorem nodup_rowCells (x0 : Nat) (r : Fin Config.displayHeight) (b : Byte) : (rowCells x0 r b).Nodup := by
  refine (List.nodup_range.filter _).map_on fun i hi j hj h => ?_
  exact wrapCol_add_inj (List.mem_range.1 (List.mem_of_mem_filter hi)) (List.mem_range.1 (List.mem_of_mem_filter hj))
    (congrArg Prod.snd h)

/-- The loop meets no cell twice: at most 32 rows, so no two wrap to the same row of the display. -/
theorem nodup_spriteCells (x0 y : Nat) {bs : List Byte} (h : bs.length ≤ 32) : (spriteCells x0 y bs).Nodup := by
  induction bs generalizing y with
  | nil => exact List.nodup_nil
  | cons b bs ih =>
    rw [List.length_cons] at h
    refine (nodup_rowCells x0 _ b).append (ih (y + 1) (by omega)) fun p hp hp' => ?_
    obtain ⟨row, b', hb, hp'⟩ := (mem_spriteCells ..).1 hp'
    obtain ⟨hrow, -⟩ := (mem_rowCells ..).1 hp
    obtain ⟨hrow', -⟩ := (mem_rowCells ..).1 hp'
    have hlt : row < bs.length := (List.getElem?_eq_some_iff.1 hb).1
    exact wrapRow_ne_of_lt (by omega) (by omega) (hrow.trans hrow'.symm)

/-- A byte with a 1 bit has it under one of the eight columns. -/
theorem exists_spriteBit_iff (b : Byte) : (∃ col < 8, spriteBit b col = true) ↔ b ≠ 0 := by
  constructor
  · rintro ⟨col, -, h⟩ rfl
    exact absurd h (by simp [spriteBit])
  · intro h
    by_contra hall
    push Not at hall
    refine h (BitVec.eq_of_getLsbD_eq fun k hk => ?_)
    have hk' := hall (7 - k) (by omega)
    rw [spriteBit, Nat.sub_sub_self (by omega)] at hk'
    simpa using hk'

/-! ### The cells a sprite covers -/

/-- The cells the blit of `s` inverts, in the order of the loop. -/
def State.coveredCells (s : State) (x y : Reg) (n : Nat) : List CellAt :=
  spriteCells (s.getV x).toNat (s.getV y).toNat (s.spriteBytes s.addrI n)

theorem State.getElem?_spriteBytes_eq_some (s : State) (addr n row : Nat) (b : Byte) :
    (s.spriteBytes addr n)[row]? = some b ↔ row < n ∧ s.ram (addr + row) = b := by
  simp [State.spriteBytes, List.getElem?_eq_some_iff]

/-- Some cell is covered iff the sprite has a 1 bit. -/
theorem State.exists_spriteCovers_iff (s : State) (x y : Reg) (n : Nat) :
    (∃ r c, s.spriteCovers x y n r c) ↔ ∃ row, row < n ∧ s.ram (s.i.toNat + row) ≠ 0 := by
  simp only [← exists_spriteBit_iff]
  constructor
  · rintro ⟨_, _, row, col, hrow, hcol, hbit, -⟩
    exact ⟨row, hrow, col, hcol, hbit⟩
  · rintro ⟨row, hrow, col, hcol, hbit⟩
    exact ⟨wrapRow ((s.getV y).toNat + row), wrapCol ((s.getV x).toNat + col), row, col, hrow, hcol, hbit, rfl, rfl⟩

/-- The state `DRW` ends in when its sprite lies in RAM. -/
def State.drawn (s : State) (x y : Reg) (n : Nat) : State :=
  (({ s with disp := (s.blit x y n).1 }).setVF (collisionFlag (s.blit x y n).2)).advance.yield .draw

section
variable {s t : State} {x y : Reg} {r : Fin Config.displayHeight} {c : Fin Config.displayWidth}

/-- The loop's cells are those a 1 bit of the sprite lies over. -/
theorem State.mem_coveredCells {n : Nat} : (r, c) ∈ s.coveredCells x y n ↔ s.spriteCovers x y n r c := by
  simp only [State.coveredCells, mem_spriteCells, State.getElem?_spriteBytes_eq_some, mem_rowCells, wrapRow_eq_iff,
    wrapCol_eq_iff]
  constructor
  · rintro ⟨row, _, ⟨hrow, rfl⟩, hr, col, hcol, hbit, hc⟩
    exact ⟨row, col, hrow, hcol, hbit, hr, hc⟩
  · rintro ⟨row, col, hrow, hcol, hbit, hr, hc⟩
    exact ⟨row, _, ⟨hrow, rfl⟩, hr, col, hcol, hbit, hc⟩

/-- What a sprite covers depends on its bytes, its address and its place alone. -/
theorem State.spriteCovers_congr {n : Nat} (hi : t.i = s.i) (hx : t.getV x = s.getV x) (hy : t.getV y = s.getV y)
    (hb : ∀ row, row < n → t.ram (s.i.toNat + row) = s.ram (s.i.toNat + row)) :
    t.spriteCovers x y n r c ↔ s.spriteCovers x y n r c := by
  unfold State.spriteCovers
  rw [hi, hx, hy]
  refine exists_congr fun row => exists_congr fun col => and_congr_right fun hrow => ?_
  rw [hb row hrow]

/-! ### The drawn state (R192) -/

theorem State.drawn_disp {n : Nat} :
    (s.drawn x y n).disp = (flipCells (s.disp, false) (s.coveredCells x y n)).1 :=
  congrArg Prod.fst (blitRows_eq_flipCells ..)

theorem State.drawn_getV_regVF {n : Nat} :
    (s.drawn x y n).getV regVF = flagByte (flipCells (s.disp, false) (s.coveredCells x y n)).2 :=
  (State.getV_setV_same ..).trans (congrArg (fun d => collisionFlag d.2) (blitRows_eq_flipCells ..))

variable {n : Nibble}

theorem State.nodup_coveredCells : (s.coveredCells x y n.toNat).Nodup := by
  refine nodup_spriteCells _ _ ?_
  have hn : n.toNat < 16 := n.isLt
  rw [State.spriteBytes, List.length_map, List.length_range]
  omega

theorem State.cell_drawn_of_covers (h : s.spriteCovers x y n.toNat r c) :
    (s.drawn x y n.toNat).disp.cell r c = !s.disp.cell r c := by
  rw [State.drawn_disp, cell_flipCells State.nodup_coveredCells, decide_eq_true (State.mem_coveredCells.2 h),
    Bool.xor_true]

theorem State.cell_drawn_of_not_covers (h : ¬ s.spriteCovers x y n.toNat r c) :
    (s.drawn x y n.toNat).disp.cell r c = s.disp.cell r c := by
  rw [State.drawn_disp, cell_flipCells State.nodup_coveredCells, decide_eq_false (mt State.mem_coveredCells.1 h),
    Bool.xor_false]

/-- The collision: a covered cell was set. -/
theorem State.drawn_collides_iff :
    (s.drawn x y n.toNat).getV regVF = 1 ↔ ∃ r c, s.spriteCovers x y n.toNat r c ∧ s.disp.cell r c = true := by
  have hflag : ∀ b, flagByte b = 1 ↔ b = true := by decide
  rw [State.drawn_getV_regVF, hflag, collision_flipCells State.nodup_coveredCells]
  simp only [Bool.false_eq_true, false_or, Prod.exists, State.mem_coveredCells]

/-- A cell goes from set to unset iff it was set and a 1 bit lies over it. -/
theorem State.cell_cleared_iff :
    s.disp.cell r c = true ∧ (s.drawn x y n.toNat).disp.cell r c = false ↔
      s.spriteCovers x y n.toNat r c ∧ s.disp.cell r c = true := by
  by_cases h : s.spriteCovers x y n.toNat r c
  · simp [State.cell_drawn_of_covers h, h]
  · simp [State.cell_drawn_of_not_covers h, h]

theorem exec_drw_of_inRam (h : n.toNat = 0 ∨ s.i.toNat + n.toNat - 1 ≤ 4095) :
    exec (.drwVxVyN x y n) s = .next (s.drawn x y n.toNat) := by
  rcases execDrwVxVyN_eq x y n s with ⟨_, e⟩ | ⟨_, _, _⟩
  · exact e
  · omega

theorem eq_drawn_of_exec_drw (h : exec (.drwVxVyN x y n) s = .next t) : t = s.drawn x y n.toNat :=
  (allNext_execDrwVxVyN (P := (· = s.drawn x y n.toNat)) rfl : AllNext _ (execDrwVxVyN x y n s)).of_next h

theorem sequential_drawn (h : exec (.drwVxVyN x y n) s = .next (s.drawn x y n.toNat)) :
    Sequential [regVF] [.display, .flow] s (s.drawn x y n.toNat) :=
  sequential_of_exec (i := .drwVxVyN x y n) (u := State.yield _ .draw) h rfl

end

/-- Settles O45: the range check comes first. -/
theorem drawFaultsBeyondRam : Obligations.DrawFaultsBeyondRam := by
  intro x y n s hn hi
  rcases execDrwVxVyN_eq x y n s with ⟨hin, _⟩ | ⟨_, _, e⟩
  · omega
  · exact e

/-- Settles O44: the drawn state, cell by cell. -/
theorem drawInvertsExactlyTheCoveredCells : Obligations.DrawInvertsExactlyTheCoveredCells := by
  intro x y n s t h r c
  rw [eq_drawn_of_exec_drw h]
  exact ⟨State.cell_drawn_of_covers, State.cell_drawn_of_not_covers⟩

/-- Settles O43: the collision is a covered set cell, which is a cell that is cleared. -/
theorem drawReportsCollisionAndYields : Obligations.DrawReportsCollisionAndYields := by
  intro x y n s h
  have he := exec_drw_of_inRam (x := x) (y := y) h
  refine ⟨s.drawn x y n.toNat, he, ?_, ?_, fun hn => ?_, rfl, sequential_drawn he⟩
  · simp only [State.drawn_collides_iff, State.cell_cleared_iff]
  · have hflag : ∀ b, flagByte b = 0 ∨ flagByte b = 1 := by decide
    exact State.drawn_getV_regVF ▸ hflag _
  · rw [hn]
    exact ⟨rfl, State.drawn_getV_regVF⟩

/-! ### The second of two equal draws (R194 e) -/

/-- After a draw, an equal sprite at the same place inverts the same cells again: the display is restored, and the
collisions are the cells the first draw set. -/
theorem State.drawn_again {s t : State} {x y : Reg} {n : Nibble} (hd : t.disp = (s.drawn x y n.toNat).disp)
    (hc : ∀ r c, t.spriteCovers x y n.toNat r c ↔ s.spriteCovers x y n.toNat r c) :
    (t.drawn x y n.toNat).disp = s.disp ∧
      ((t.drawn x y n.toNat).getV regVF = 1 ↔ ∃ r c, s.spriteCovers x y n.toNat r c ∧ s.disp.cell r c = false) := by
  refine ⟨Display.ext_cell fun r c => ?_, ?_⟩
  · by_cases h : s.spriteCovers x y n.toNat r c
    · rw [State.cell_drawn_of_covers ((hc r c).2 h), hd, State.cell_drawn_of_covers h, Bool.not_not]
    · rw [State.cell_drawn_of_not_covers (mt (hc r c).1 h), hd, State.cell_drawn_of_not_covers h]
  · rw [State.drawn_collides_iff]
    refine exists_congr fun r => exists_congr fun c => ?_
    rw [hc, hd]
    refine and_congr_right fun h => ?_
    rw [State.cell_drawn_of_covers h, Bool.not_eq_true']

/-- Settles O46: a later state that kept what the sprite covers draws again, and the first draw itself keeps it when
it writes neither coordinate. -/
theorem drawTwiceRestoresTheDisplay : Obligations.DrawTwiceRestoresTheDisplay := by
  intro x y n s h
  have he := exec_drw_of_inRam (x := x) (y := y) h
  refine ⟨s.drawn x y n.toNat, he, fun t hd hi hx hy hb => ?_, fun hx hy => ?_⟩
  · obtain ⟨hdisp, hvf⟩ := State.drawn_again hd fun _ _ => State.spriteCovers_congr hi hx hy hb
    refine ⟨t.drawn x y n.toNat, exec_drw_of_inRam (hi ▸ h), hdisp, hvf, fun hunset => ?_⟩
    rw [hvf, ← s.exists_spriteCovers_iff x y]
    exact exists_congr fun r => exists_congr fun c => and_iff_left_of_imp (hunset r c)
  · obtain ⟨-, -, hv, -⟩ := sequential_drawn he
    have hxv := hv x (mt List.mem_singleton.1 hx)
    have hyv := hv y (mt List.mem_singleton.1 hy)
    exact ⟨_, exec_drw_of_inRam h,
      State.drawn_again rfl fun _ _ => State.spriteCovers_congr rfl hxv hyv fun _ _ => rfl⟩

/-- Refutes O47: with a one-bit sprite over a set cell, the first draw clears the cell and the second sets it again,
with no collision. -/
theorem not_secondDrawCollidesIffTheSpriteHasABit : ¬ Obligations.SecondDrawCollidesIffTheSpriteHasABit := by
  intro h
  have hvf := (h 0 0 1 { State.reset with mem := [(0, 0x80)], disp := Display.blank.setCell 0 0 true } _ _
    (by decide) (by decide) rfl rfl).2 ⟨0, by decide, by decide⟩
  exact absurd hvf (by decide)

end Sys2Proof.Machine
end

section
/-!
SUPPORT. The timer writes (45_timers R202, R203): the state each of them ends in.
-/

namespace Sys2Proof.Machine

theorem exec_ldDtVx (x : Reg) (s : State) : exec (.ldDtVx x) s = .next (s.setDt (s.getV x)).advance := rfl

theorem exec_ldStVx (x : Reg) (s : State) : exec (.ldStVx x) s = .next (s.setSt (s.getV x)).advance := rfl

/-- Settles O48: the write of the one timer, then the advance; `setSt` is what re-evaluates the buzzer. -/
theorem timerWritesSetTheirTimer : Obligations.TimerWritesSetTheirTimer := by
  refine fun x s => ⟨⟨_, exec_ldDtVx x s, ?_, ?_⟩, ⟨_, exec_ldStVx x s, ?_, ?_, ?_⟩⟩
  · rw [State.advance_dt, State.setDt_dt]
  · exact sequential_of_exec (exec_ldDtVx x s) (State.setDt_pc s _)
  · rw [State.advance_st, State.setSt_st]
  · rw [State.advance_buzzer, State.setSt_buzzer]
  · exact sequential_of_exec (exec_ldStVx x s) (State.setSt_pc s _)

end Sys2Proof.Machine
end

section
/-!
SUPPORT. The unimplemented words (46_unimplemented R210, R213; 60_exceptions R226): the exception's entry and its frame.
-/

namespace Sys2Proof.Machine

/-- Settles O49: each of the four rows is the exception's entry, which writes the trap state and the flow alone. -/
theorem unimplementedWordsTrapPrecisely : Obligations.UnimplementedWordsTrapPrecisely := fun _ s hi =>
  ⟨s.unsupportedOpcode, exec_unimplemented hi s, s.unsupportedOpcode_trap, s.unsupportedOpcode_error,
    s.unsupportedOpcode_flow, s.unsupportedOpcode_pc, s.unsupportedOpcode_jumpCount, Frame.unsupportedOpcode s⟩

end Sys2Proof.Machine
end

section
/-!
SUPPORT. How a step faults (60_exceptions R227, R228): the fault of each operation, of each instruction, of the cycle.
-/

namespace Sys2Proof.Machine

/-- When what follows never answers the fault, the fault is the operation's own. -/
theorem andThen_eq_fault_iff {α : Type} {r : Except Fault α} {k : α → Outcome State Fault Refusal} {f : Fault}
    (hk : ∀ a, k a ≠ .fault f) : andThen r k = .fault f ↔ r = .error f := by
  cases r with
  | ok a => exact iff_of_false (hk a) nofun
  | error g => rw [andThen, Host.Outcome.fault.injEq, Except.error.injEq]

section
variable (s : State) (f : Fault)

theorem State.push_eq_error_iff (a : Word) :
    s.push a = .error f ↔ 15 < s.sp.toNat + 1 ∧ f = .stackOverflow := by
  rcases s.push_eq a with ⟨hfree, e⟩ | ⟨hfull, e⟩ <;> rw [e]
  · exact iff_of_false nofun fun h => absurd hfree (Nat.not_lt_of_le h.1)
  · have hlt : 15 < s.sp.toNat + 1 := Nat.le_of_not_lt hfull
    rw [Except.error.injEq, eq_comm, and_iff_right hlt]

theorem State.pop_eq_error_iff : s.pop = .error f ↔
    (s.sp.toNat = 0 ∧ f = .stackUnderflow) ∨ (15 < s.sp.toNat ∧ f = .stackSlotOutOfRange s.sp.toNat) := by
  have hzero : s.sp.toNat = 0 ↔ s.sp = 0 := (BitVec.toNat_eq (y := 0)).symm
  rcases s.pop_eq with ⟨hsp, e⟩ | ⟨hsp, hlt, e⟩ | ⟨hsp, hlt, e⟩ <;> rw [e]
  · have h0 : s.sp.toNat = 0 := hzero.2 hsp
    rw [Except.error.injEq, eq_comm, and_iff_right h0, or_iff_left (by omega)]
  · have h0 : s.sp.toNat ≠ 0 := mt hzero.1 hsp
    have hle : s.sp.toNat ≤ 15 := Nat.le_of_lt_succ hlt
    exact iff_of_false nofun (by omega)
  · have h0 : s.sp.toNat ≠ 0 := mt hzero.1 hsp
    have hgt : 15 < s.sp.toNat := Nat.le_of_not_lt hlt
    rw [Except.error.injEq, eq_comm, and_iff_right hgt, or_iff_right fun h => h0 h.1]

theorem execDrwVxVyN_eq_fault_iff (x y : Reg) (n : Nibble) : execDrwVxVyN x y n s = .fault f ↔
    0 < n.toNat ∧ 4095 < s.i.toNat + n.toNat - 1 ∧ f = .spriteOutOfRange (s.i.toNat + n.toNat - 1) := by
  rcases execDrwVxVyN_eq x y n s with ⟨hin, e⟩ | ⟨hn, hout, e⟩ <;> rw [e]
  · exact iff_of_false nofun (by omega)
  · rw [Host.Outcome.fault.injEq, eq_comm, and_iff_right hn, and_iff_right (by omega)]

end

/-- The faults of R228 that an instruction raises once it is fetched. -/
def InstrFault (i : Instr) (s : State) (f : Fault) : Prop :=
  (∃ x y n, i = .drwVxVyN x y n ∧ 0 < n.toNat ∧ 4095 < s.i.toNat + n.toNat - 1 ∧
    f = .spriteOutOfRange (s.i.toNat + n.toNat - 1)) ∨
  (∃ nnn, i = .call nnn ∧ 15 < s.sp.toNat + 1 ∧ f = .stackOverflow) ∨
  (i = .ret ∧ s.sp.toNat = 0 ∧ f = .stackUnderflow) ∨
  (i = .ret ∧ 15 < s.sp.toNat ∧ f = .stackSlotOutOfRange s.sp.toNat)

/-- Only `RET`, `CALL` and `DRW` fault, each with the fault of its operation. -/
theorem exec_eq_fault_iff (i : Instr) (s : State) (f : Fault) : exec i s = .fault f ↔ InstrFault i s f := by
  cases i with
  | ret => exact (andThen_eq_fault_iff nofun).trans ((s.pop_eq_error_iff f).trans (by simp [InstrFault]))
  | call nnn => exact (andThen_eq_fault_iff nofun).trans ((s.push_eq_error_iff f s.pc).trans (by simp [InstrFault]))
  | drwVxVyN x y n => exact (execDrwVxVyN_eq_fault_iff s f x y n).trans (by simp [InstrFault])
  | _ => exact iff_of_false nofun (by simp [InstrFault])

/-- Settles O15: nothing when trapped, else the fetch's fault, else the instruction's; the ticks touch neither `I` nor
`SP`. -/
theorem stepFaultsExactlyForTheListedCauses : Obligations.StepFaultsExactlyForTheListedCauses := by
  intro s f
  rw [step_eq_cycle]
  rcases cycle_cases (Config.freeTicks s.ticksTaken) s with ⟨ht, e⟩ | ⟨ht, hpc, e⟩ | ⟨ht, hpc, e⟩ <;> rw [e]
  · exact iff_of_false nofun fun h => Bool.noConfusion (ht.symm.trans h.1)
  · have hfetch : 4095 < s.pc.toNat + 1 := Nat.succ_lt_succ hpc
    rw [Host.Outcome.fault.injEq, eq_comm]
    simp [ht, hfetch, Nat.not_le_of_lt hfetch]
  · have hfetch : s.pc.toNat + 1 ≤ 4095 := Nat.succ_le_succ hpc
    rw [exec_eq_fault_iff, and_iff_right ht, or_iff_right fun h => Nat.not_lt_of_le hfetch h.1, and_iff_right hfetch]
    rfl

end Sys2Proof.Machine
end

section
/-!
SUPPORT. The host between two cycles (60_exceptions R229, R240, R241, R242): the load that is refused, the two ways to
stop the engine, the keys, the display dump.
-/

namespace Sys2Proof.Machine

/-! ### `load` that does not fit (R229) -/

/-- Settles O51: the two answers of a load. -/
theorem largeProgramIsRefused : Obligations.LargeProgramIsRefused := by
  intro bytes s
  rcases load_eq bytes s with ⟨hfits, e⟩ | ⟨hlarge, e⟩
  · exact ⟨fun h => absurd hfits (Nat.not_le_of_lt h), fun _ => ⟨_, e⟩⟩
  · exact ⟨fun _ => e, fun h => absurd h (Nat.not_le_of_lt hlarge)⟩

/-! ### Stop requests and fatal errors (R223, R224, R231, R242) -/

@[simp] theorem requestStop_trap (s : State) : (requestStop s).trap = true := rfl

@[simp] theorem requestStop_error (s : State) : (requestStop s).error = s.error := rfl

/-- A trapped state's next cycle reports what its error says (R121). -/
theorem step_reports_trap {s : State} (h : s.trap = true) :
    ∃ t, step s = .next t ∧ t.flow = some (trapFlow s.error) := ⟨s.reportTrap, step_of_trap h, s.reportTrap_flow⟩

/-- Settles O55: both requests set the trap; a stop request keeps the error, a fatal error records its own. -/
theorem hostStopsAreSeenAtTheNextCycle : Obligations.HostStopsAreSeenAtTheNextCycle := by
  intro s msg
  refine ⟨fun hnone => ?_, step_reports_trap (s.fatal_trap msg), step_reports_trap (requestStop_trap _),
    step_reports_trap ((requestStop s).fatal_trap msg)⟩
  obtain ⟨t, hstep, hflow⟩ := step_reports_trap (requestStop_trap s)
  exact ⟨t, hstep, by rw [hflow, requestStop_error, hnone, trapFlow]⟩

/-! ### Keys (R33, R240) -/

section
variable {k : Nat} (pressed : Bool) (s : State)

theorem setKey_of_invalid (h : 15 < k) : setKey k pressed s = s := if_neg (Nat.not_le_of_lt h)

theorem isKeyPressed_of_valid (h : k ≤ 15) : isKeyPressed k s = s.keys.getLsbD k := if_pos h

theorem isKeyPressed_of_invalid (h : 15 < k) : isKeyPressed k s = false := if_neg (Nat.not_le_of_lt h)

theorem keys_setKey (h : k ≤ 15) : (setKey k pressed s).keys =
    if pressed then s.keys ||| BitVec.twoPow 16 k else s.keys &&& ~~~(BitVec.twoPow 16 k) :=
  congrArg State.keys (if_pos h)

/-- A setting writes bit `k` of the key state alone. -/
theorem getLsbD_keys_setKey (h : k ≤ 15) (j : Nat) :
    (setKey k pressed s).keys.getLsbD j = if j = k then pressed else s.keys.getLsbD j := by
  rw [keys_setKey pressed s h]
  by_cases hj : j = k
  · have hk : k < 16 := Nat.lt_succ_of_le h
    subst hj
    cases pressed <;> simp [hk]
  · have hbit : (BitVec.twoPow 16 k).getLsbD j = false := by
      rw [BitVec.getLsbD_twoPow, decide_eq_false (Ne.symm hj), Bool.and_false]
    cases pressed with
    | true => simp [hbit, hj]
    | false => simpa [hbit, hj] using BitVec.lt_of_getLsbD

theorem setKey_withKeys (k : Nat) : { setKey k pressed s with keys := s.keys } = s := by
  unfold setKey
  split <;> rfl

theorem isKeyPressed_setKey (j k : Nat) :
    isKeyPressed j (setKey k pressed s) = if j = k ∧ k ≤ 15 then pressed else isKeyPressed j s := by
  by_cases hk : k ≤ 15
  · by_cases hj : j ≤ 15
    · simp [isKeyPressed_of_valid, hj, hk, getLsbD_keys_setKey]
    · rw [if_neg (by omega), isKeyPressed_of_invalid _ (by omega), isKeyPressed_of_invalid _ (by omega)]
  · rw [setKey_of_invalid _ _ (by omega), if_neg (by omega)]

end

/-- Settles O53: bit `k`, for a valid id; nothing, for an invalid one. -/
theorem keysAreSetOneByOne : Obligations.KeysAreSetOneByOne := fun k j pressed s =>
  ⟨fun hk => getLsbD_keys_setKey pressed s hk j, isKeyPressed_of_valid s, isKeyPressed_setKey pressed s j k,
    fun hk => ⟨setKey_of_invalid pressed s hk, isKeyPressed_of_invalid s hk⟩, setKey_withKeys pressed s k⟩

/-! ### The display dump (R241) -/

/-- A line of the dump (`dumpLine`) as a vector, so that its length stands in its type. -/
def lineVector (row : Vector Bool Config.displayWidth) : Vector Char (Config.displayWidth + 1) :=
  (row.map cellChar).push '\n'

theorem dumpLine_eq (row : Vector Bool Config.displayWidth) : dumpLine row = (lineVector row).toList := by
  rw [lineVector, Vector.toList_push, Vector.toList_map, dumpLine]

theorem dumpDisplay_eq (s : State) : dumpDisplay s = (s.disp.flatMap lineVector).toList := by
  rw [dumpDisplay, funext dumpLine_eq]
  exact Array.toList_flatMap.symm

/-- The lines have one length, so row `r` of the display starts at character `65 * r`. -/
theorem getElem?_dumpDisplay (s : State) {r c : Nat} (hr : r < 32) (hc : c < 65) :
    (dumpDisplay s)[r * 65 + c]? = some (lineVector s.disp[r])[c] := by
  have hlt : r * 65 + c < 32 * 65 := by omega
  have hdiv : (r * 65 + c) / 65 = r := by omega
  have hmod : (r * 65 + c) % 65 = c := by omega
  rw [dumpDisplay_eq, Vector.getElem?_toList, Vector.getElem?_flatMap, dif_pos hlt]
  simp only [hdiv, hmod]

theorem lineVector_cell (row : Vector Bool Config.displayWidth) (c : Fin Config.displayWidth) :
    (lineVector row)[c.val] = cellChar (row.get c) := by
  simp only [lineVector, Vector.getElem_push_lt c.isLt, Vector.getElem_map]
  rfl

theorem lineVector_end (row : Vector Bool Config.displayWidth) : (lineVector row)[64] = '\n' :=
  Vector.getElem_push_eq

/-- Settles O54: 32 lines of 65 characters, each read where its row puts it. -/
theorem dumpShowsEveryCell : Obligations.DumpShowsEveryCell := by
  refine fun s => ⟨?_, fun r c => ?_, fun r hr => ?_⟩
  · rw [dumpDisplay_eq, Vector.length_toList]
  · rw [getElem?_dumpDisplay s r.isLt (Nat.lt_succ_of_lt c.isLt), lineVector_cell]
    rfl
  · rw [getElem?_dumpDisplay s hr (Nat.lt_succ_self _), lineVector_end]

end Sys2Proof.Machine
end

section
/-!
SUPPORT. An engine that has had no load (70_reset_and_hazards R260; 46_unimplemented R210): its timers stand still and
the word at `PC` is unimplemented.
-/

namespace Sys2Proof.Machine

/-! ### Timers that have run down (R28, R29) -/

@[simp] theorem zero_countDown (n : Nat) : countDown 0 n = 0 :=
  BitVec.eq_of_toNat_eq ((toNat_countDown 0 n).trans (Nat.zero_sub n))

section
variable {s : State} (hdt : s.dt = 0) (hst : s.st = 0) (hbuzzer : s.buzzer = decide (s.st ≠ 0)) (ticks : Nat)
include hdt hst hbuzzer

/-- With both timers at 0, any number of ticks does what no tick does. -/
theorem State.applyTicks_of_timers_zero : s.applyTicks ticks = s := calc
  s.applyTicks ticks = s.applyTicks 0 := by
    rw [State.applyTicks, State.applyTicks, hdt, hst, zero_countDown, zero_countDown]
  _ = s := State.applyTicks_zero hbuzzer

theorem Frame.beginCycle_of_timers_zero : Frame [] [.flow, .tickIndex] s (s.beginCycle ticks) := by
  rw [State.beginCycle, State.applyTicks_of_timers_zero hdt hst hbuzzer]
  exact (Frame.withFlow s none).trans (.withTicksTaken _ _)

end

/-! ### The first cycle (R210, R260) -/

/-- A step at an unimplemented word is the exception's entry after the cycle's ticks (R226). -/
theorem step_of_unimplemented {s : State} (ht : s.trap = false) (hpc : s.pc.toNat ≤ 4094)
    (hi : s.nextInstr.implemented = false) :
    step s = .next (s.beginCycle (Config.freeTicks s.ticksTaken)).unsupportedOpcode := by
  rw [step_eq_cycle, cycle_executes_wordAtPc ht hpc, decodeWord_wordAtPc, exec_unimplemented hi]

/-- The word of RAM that nothing has written, `0x0000`, is unimplemented (R211). -/
theorem State.reset_nextInstr : State.reset.nextInstr = .unimplementedFallback 0 := rfl

theorem Frame.firstCycle_of_reset (ticks : Nat) :
    Frame [] [.trapState, .flow, .tickIndex] State.reset (State.reset.beginCycle ticks).unsupportedOpcode :=
  ((Frame.beginCycle_of_timers_zero rfl rfl State.reset_inv.buzzer_st ticks).trans (.unsupportedOpcode _)).mono
    (List.Subset.refl _) (by decide)

/-- Settles O21: the exception's entry at word 0 of empty RAM, at any tick count. -/
theorem unloadedEngineYieldsErrorAtOnce : Obligations.UnloadedEngineYieldsErrorAtOnce := by
  have himpl : State.reset.nextInstr.implemented = false := congrArg Instr.implemented State.reset_nextInstr
  have hstep := step_of_unimplemented rfl (by decide) himpl
  exact ⟨_, hstep, State.unsupportedOpcode_flow _, State.unsupportedOpcode_trap _, State.unsupportedOpcode_error _,
    rfl, Frame.firstCycle_of_reset _⟩

end Sys2Proof.Machine
end
